-- ==== Sys2Proof/Word.lean ====
section
/-! DEFINITION. The machine's word types: the 32-bit limb and bus word, the byte of the host's byte
strings, and the index of a bignum register. -/

namespace Sys2Proof

/-- A 32-bit word: a limb (R6, W = 32), a bus word (R45) or a command word (R67). -/
abbrev Word := BitVec 32

/-- A byte, met only in the host's byte strings (R50). -/
abbrev Byte := BitVec 8

/-- The index of a bignum register, b0 to b15 (R20, R68). -/
abbrev RegIdx := Fin 16

end Sys2Proof
end

