-- ==== Sys2Proof/Syntax.lean ====
section
/-! DEFINITION. The commands of BIGC version 1: one constructor per row of the opcode map (R71). -/

namespace Sys2Proof

/-- A command. The register arguments stand in field order: rd, rs1, rs2, rs3 (R68). -/
inductive Instr where
  /-- ADD, signed add (R88). -/
  | add (rd rs1 rs2 : RegIdx)
  /-- SUB, signed subtract (R89). -/
  | sub (rd rs1 rs2 : RegIdx)
  /-- ADDU, unsigned magnitude add (R85). -/
  | addu (rd rs1 rs2 : RegIdx)
  /-- SUBU, unsigned magnitude subtract (R86). -/
  | subu (rd rs1 rs2 : RegIdx)
  /-- MUL, signed multiply (R95). -/
  | mul (rd rs1 rs2 : RegIdx)
  /-- DIVMOD, divide with remainder (R98): rd gets the quotient, rs3 the remainder. -/
  | divmod (rd rs1 rs2 rs3 : RegIdx)
  /-- SHL, shift left (R101). -/
  | shl (rd rs1 rs2 : RegIdx)
  /-- SHR, shift right (R102). -/
  | shr (rd rs1 rs2 : RegIdx)
  /-- CMP, signed compare (R104). -/
  | cmp (rs1 rs2 : RegIdx)
  /-- BITLEN, bit length (R106). -/
  | bitlen (rd rs1 : RegIdx)
  /-- BIT, single-bit access (R107). -/
  | bit (rd rs1 rs2 : RegIdx)
  /-- MOV, copy (R108). -/
  | mov (rd rs1 : RegIdx)
  /-- NEG, negate (R90). -/
  | neg (rd rs1 : RegIdx)
  /-- INC, increment (R91). -/
  | inc (rd : RegIdx)
  /-- DEC, decrement (R92). -/
  | dec (rd : RegIdx)
  /-- LDW, load a 16-bit word (R109). -/
  | ldw (rd : RegIdx) (imm16 : BitVec 16)
  /-- MONTMUL, Montgomery multiply (R112): rs3 is the modulus. -/
  | montmul (rd rs1 rs2 rs3 : RegIdx)
  /-- MODEXP, modular exponentiation (R115): rs1 the base, rs2 the exponent, rs3 the modulus. -/
  | modexp (rd rs1 rs2 rs3 : RegIdx)
  deriving DecidableEq, Repr

end Sys2Proof
end

