-- ==== Sys2Proof/WellFormed.lean ====
section
/-! DEFINITION. Which commands have a legal word. The types already bound every field; the one
constraint left is DIVMOD's two destinations (R71, R73). -/

namespace Sys2Proof

/-- `i.wf`: some legal word encodes `i`. -/
def Instr.wf : Instr → Bool
  | .add _ _ _ => true
  | .sub _ _ _ => true
  | .addu _ _ _ => true
  | .subu _ _ _ => true
  | .mul _ _ _ => true
  | .divmod rd _ _ rs3 => decide (rd ≠ rs3)
  | .shl _ _ _ => true
  | .shr _ _ _ => true
  | .cmp _ _ => true
  | .bitlen _ _ => true
  | .bit _ _ _ => true
  | .mov _ _ => true
  | .neg _ _ => true
  | .inc _ => true
  | .dec _ => true
  | .ldw _ _ => true
  | .montmul _ _ _ _ => true
  | .modexp _ _ _ _ => true

end Sys2Proof
end

