-- ==== Sys2Proof/Decode.lean ====
section
/-! DEFINITION. The command word: its fields and formats (R68, R69), the opcode map (R71), the decoder
(R72), the encoder (R78) and the pseudo-instructions (R76). -/

namespace Sys2Proof

/-- The six formats of R69. -/
inductive Format where
  | r4 | r3 | r2 | rc | r1 | i16
  deriving DecidableEq, Repr

/-- R69's mask: the bits a format fixes, the opcode and bits [7:6] included. -/
def formatMask : Format → Word
  | .r4 => 0xFF0000FF#32
  | .r3 => 0xFFF000FF#32
  | .r2 => 0xFFFF00FF#32
  | .rc => 0xFFF00FFF#32
  | .r1 => 0xFFFFF0FF#32
  | .i16 => 0x0000F0FF#32

/-- Why a word is illegal (R73), in the order R72 looks. -/
inductive DecodeError where
  /-- The opcode is in no row of R71. -/
  | reservedOpcode
  /-- Bits [7:6] are not 0. -/
  | reservedBits
  /-- A field the format does not use is not 0. -/
  | unusedField
  /-- DIVMOD with rd = rs3. -/
  | sameDestination
  deriving DecidableEq, Repr

/-- The fields of a command word past the opcode (R68). -/
structure Fields where
  rd : RegIdx
  rs1 : RegIdx
  rs2 : RegIdx
  rs3 : RegIdx
  imm16 : BitVec 16
  deriving DecidableEq, Repr

/-- w[5:0], the opcode. -/
def opField (w : Word) : Nat := (w.extractLsb' 0 6).toNat

/-- w[7:6], which must be 0. -/
def reservedField (w : Word) : BitVec 2 := w.extractLsb' 6 2

/-- The four bits of w from bit `lo` up, as the register index they name (R70). -/
def regField (w : Word) (lo : Nat) : RegIdx := (w.extractLsb' lo 4).toFin

/-- R68's fields of a word. -/
def fieldsOf (w : Word) : Fields :=
  { rd := regField w 8, rs1 := regField w 12, rs2 := regField w 16, rs3 := regField w 20,
    imm16 := w.extractLsb' 16 16 }

/-- The opcode map (R71): an opcode's format and the command its fields make. -/
def opcodeRow (op : Nat) : Option (Format × (Fields → Instr)) :=
  match op with
  | 0x01 => some (.r3, fun f => .add f.rd f.rs1 f.rs2)
  | 0x02 => some (.r3, fun f => .sub f.rd f.rs1 f.rs2)
  | 0x03 => some (.r3, fun f => .addu f.rd f.rs1 f.rs2)
  | 0x04 => some (.r3, fun f => .subu f.rd f.rs1 f.rs2)
  | 0x05 => some (.r3, fun f => .mul f.rd f.rs1 f.rs2)
  | 0x06 => some (.r4, fun f => .divmod f.rd f.rs1 f.rs2 f.rs3)
  | 0x07 => some (.r3, fun f => .shl f.rd f.rs1 f.rs2)
  | 0x08 => some (.r3, fun f => .shr f.rd f.rs1 f.rs2)
  | 0x09 => some (.rc, fun f => .cmp f.rs1 f.rs2)
  | 0x0A => some (.r2, fun f => .bitlen f.rd f.rs1)
  | 0x0B => some (.r3, fun f => .bit f.rd f.rs1 f.rs2)
  | 0x0C => some (.r2, fun f => .mov f.rd f.rs1)
  | 0x0D => some (.r2, fun f => .neg f.rd f.rs1)
  | 0x0E => some (.r1, fun f => .inc f.rd)
  | 0x0F => some (.r1, fun f => .dec f.rd)
  | 0x10 => some (.i16, fun f => .ldw f.rd f.imm16)
  | 0x11 => some (.r4, fun f => .montmul f.rd f.rs1 f.rs2 f.rs3)
  | 0x12 => some (.r4, fun f => .modexp f.rd f.rs1 f.rs2 f.rs3)
  | _ => none

/-- R71's match word of an opcode: the opcode, every other fixed bit 0. -/
def matchWord (op : Nat) : Word := BitVec.ofNat 32 op

/-- The decoder, check by check as R72 writes it. Total on every 32-bit word (R80). -/
def decode (w : Word) : Except DecodeError Instr :=
  match opcodeRow (opField w) with
  | none => .error .reservedOpcode
  | some (fmt, build) =>
    if reservedField w ≠ 0#2 then .error .reservedBits
    else if w &&& formatMask fmt ≠ matchWord (opField w) then .error .unusedField
    else if opField w = 0x06 ∧ (fieldsOf w).rd = (fieldsOf w).rs3 then .error .sameDestination
    else .ok (build (fieldsOf w))

/-- A command's opcode (R71). -/
def opcodeOf : Instr → Nat
  | .add _ _ _ => 0x01
  | .sub _ _ _ => 0x02
  | .addu _ _ _ => 0x03
  | .subu _ _ _ => 0x04
  | .mul _ _ _ => 0x05
  | .divmod _ _ _ _ => 0x06
  | .shl _ _ _ => 0x07
  | .shr _ _ _ => 0x08
  | .cmp _ _ => 0x09
  | .bitlen _ _ => 0x0A
  | .bit _ _ _ => 0x0B
  | .mov _ _ => 0x0C
  | .neg _ _ => 0x0D
  | .inc _ => 0x0E
  | .dec _ => 0x0F
  | .ldw _ _ => 0x10
  | .montmul _ _ _ _ => 0x11
  | .modexp _ _ _ _ => 0x12

/-- A command's format (R71). -/
def formatOf : Instr → Format
  | .add _ _ _ => .r3
  | .sub _ _ _ => .r3
  | .addu _ _ _ => .r3
  | .subu _ _ _ => .r3
  | .mul _ _ _ => .r3
  | .divmod _ _ _ _ => .r4
  | .shl _ _ _ => .r3
  | .shr _ _ _ => .r3
  | .cmp _ _ => .rc
  | .bitlen _ _ => .r2
  | .bit _ _ _ => .r3
  | .mov _ _ => .r2
  | .neg _ _ => .r2
  | .inc _ => .r1
  | .dec _ => .r1
  | .ldw _ _ => .i16
  | .montmul _ _ _ _ => .r4
  | .modexp _ _ _ _ => .r4

/-- A register index put at bit `lo` of a word. -/
def placeReg (r : RegIdx) (lo : Nat) : Word := BitVec.ofNat 32 r.val <<< lo

/-- R78's Enc for the register formats. The fields share no bit, so R78's sum is this bitwise or.
DEDUCED (log 11). -/
def encodeRegs (op : Nat) (rd rs1 rs2 rs3 : RegIdx) : Word :=
  matchWord op ||| placeReg rd 8 ||| placeReg rs1 12 ||| placeReg rs2 16 ||| placeReg rs3 20

/-- R78's EncI for format I16. -/
def encodeImm (op : Nat) (rd : RegIdx) (imm16 : BitVec 16) : Word :=
  matchWord op ||| placeReg rd 8 ||| (imm16.setWidth 32 <<< 16)

/-- The encoder (R78): unused fields are 0. -/
def encode : Instr → Word
  | .add rd rs1 rs2 => encodeRegs 0x01 rd rs1 rs2 0
  | .sub rd rs1 rs2 => encodeRegs 0x02 rd rs1 rs2 0
  | .addu rd rs1 rs2 => encodeRegs 0x03 rd rs1 rs2 0
  | .subu rd rs1 rs2 => encodeRegs 0x04 rd rs1 rs2 0
  | .mul rd rs1 rs2 => encodeRegs 0x05 rd rs1 rs2 0
  | .divmod rd rs1 rs2 rs3 => encodeRegs 0x06 rd rs1 rs2 rs3
  | .shl rd rs1 rs2 => encodeRegs 0x07 rd rs1 rs2 0
  | .shr rd rs1 rs2 => encodeRegs 0x08 rd rs1 rs2 0
  | .cmp rs1 rs2 => encodeRegs 0x09 0 rs1 rs2 0
  | .bitlen rd rs1 => encodeRegs 0x0A rd rs1 0 0
  | .bit rd rs1 rs2 => encodeRegs 0x0B rd rs1 rs2 0
  | .mov rd rs1 => encodeRegs 0x0C rd rs1 0 0
  | .neg rd rs1 => encodeRegs 0x0D rd rs1 0 0
  | .inc rd => encodeRegs 0x0E rd 0 0 0
  | .dec rd => encodeRegs 0x0F rd 0 0 0
  | .ldw rd imm16 => encodeImm 0x10 rd imm16
  | .montmul rd rs1 rs2 rs3 => encodeRegs 0x11 rd rs1 rs2 rs3
  | .modexp rd rs1 rs2 rs3 => encodeRegs 0x12 rd rs1 rs2 rs3

/-- The command my decoder reads from the low `nbits` bits of `w`, the bits above them 0. Every command
is one 32-bit word (R67), so there is no later word to lay out. -/
def decodeTableWord (nbits w : Nat) : Option Instr :=
  match decode (BitVec.ofNat 32 (w % 2 ^ nbits)) with
  | .ok i => some i
  | .error _ => none

/-- `CLR bd`, the pseudo-instruction for `LDW bd, #0` (R76). -/
def pseudoClr (rd : RegIdx) : Instr := .ldw rd 0#16

/-- `ONE bd`, for `LDW bd, #1` (R76). -/
def pseudoOne (rd : RegIdx) : Instr := .ldw rd 1#16

/-- `SQR bd, ba`, for `MUL bd, ba, ba` (R76). -/
def pseudoSqr (rd ra : RegIdx) : Instr := .mul rd ra ra

/-- `ABSU bd, ba`, for `ADDU bd, ba, bz`, where b_z holds 0 (R76). -/
def pseudoAbsu (rd ra rz : RegIdx) : Instr := .addu rd ra rz

end Sys2Proof
end

