-- ==== Sys2Proof/Config.lean ====
section
/-! DEFINITION. What one built device fixes (R6), and the free value of an early operand read (R53). -/

namespace Sys2Proof

/-- The `OPEN` parameters of R6 that shape the machine. They are plain data carried by the state and
changed by no step, so that every statement about every state holds for every M and every base address. -/
structure Config where
  /-- M = MAX_LIMBS, the limbs of each bignum register, 1 to 256. -/
  maxLimbs : Nat
  /-- BASE_ADDR, where the host's address space holds the aperture, a multiple of 0x8000. -/
  baseAddr : Nat
  deriving DecidableEq, Repr

/-- The values R6 allows the parameters to take. -/
def Config.wf (c : Config) : Bool :=
  decide (1 ≤ c.maxLimbs) && decide (c.maxLimbs ≤ 256) && decide (c.baseAddr % 0x8000 = 0)

/-- The device `State.reset` describes: R6's reference value M = 128, at base address 0.
DESIGN CHOICE (log 1): R6 leaves both parameters open. -/
def Config.reference : Config := ⟨128, 0⟩

/-- The value of the k-th draw (R15, R53). A free value without a body: no proof can learn anything
about it, so whatever is proved holds for every word the device could return (log 3). -/
opaque Config.draw : Nat → Word

end Sys2Proof
end

