-- ==== Sys2Proof/Machine/State.lean ====
section
/-! DEFINITION. The state of the engine and of its host port, as plain data, and the state after reset (R44). -/

namespace Sys2Proof.Machine

/-- A bignum register (R20): a sign bit and M limbs, least significant first. -/
structure BigReg where
  /-- S[i]; true is negative. -/
  sign : Bool
  /-- L[i][0] to L[i][M-1]. -/
  limbs : List Word
  deriving DecidableEq, Repr

/-- The fault causes (R119). The codes are `causeCode`. -/
inductive Cause where
  /-- No fault since reset. -/
  | none
  /-- A reserved opcode, a non-zero must-be-zero bit, or DIVMOD with rd = rs3 (R120). -/
  | illegalCmd
  /-- A divisor or modulus of 0 (R121). -/
  | zeroDivide
  /-- A negative operand of an unsigned-only command (R122). -/
  | operationSource
  /-- SUBU with the smaller magnitude first (R123). -/
  | magnitudeOrder
  /-- A result magnitude at or above CAP (R124). -/
  | capacity
  /-- MONTMUL with an even modulus or modulus 1 (R125). -/
  | modulus
  deriving DecidableEq, Repr

/-- One step of the world around the engine (R14). A list of these is the interleaving, the machine's
input (93_implementation_defined.md I4). DESIGN CHOICE (log 2). -/
inductive Event where
  /-- `MemRead(addr, size)`, one host read (R10). -/
  | read (addr size : Nat)
  /-- `MemWrite(addr, size, value)`, one host write (R10). `value` is the low 32 bits, all that a normal
  access carries; an access of another size stores nothing (R51). -/
  | write (addr size : Nat) (value : Word)
  /-- The engine's one step, taken if it is enabled (R14, R57). -/
  | engine
  /-- The reset input takes this level; true is asserted (R143). -/
  | resetPin (asserted : Bool)
  deriving DecidableEq, Repr

/-- What one host read gave back (R155). -/
structure Reply where
  addr : Nat
  size : Nat
  data : Word
  deriving DecidableEq, Repr

/-- Why the machine stops. A fault of a command (R119) is no stop: it is a next state (R129). -/
inductive Fault where
  /-- Raised by `step` on a host access to an address outside the aperture: the accesses are defined on
  the aperture only (R10), and the address is the platform's (R59). Safe: nothing is claimed of it. DESIGN CHOICE (log 5). -/
  | outsideAperture (addr : Nat)
  deriving DecidableEq, Repr

/-- Why an instruction has no meaning. -/
inductive Refusal where
  /-- Raised by an arm of `exec` that has no meaning yet; no arm is left so. Safe: the machine stops. -/
  | notModelled (mnemonic : String)
  deriving DecidableEq, Repr

/-- The machine. The fields down to `faultCmd` are the spec's own state; the last four are the model's:
the level of the reset input, the interleaving still to come, the host's read results, and the count of draws. -/
structure State where
  /-- The device's parameters (R6, R31); no step changes them. -/
  cfg : Config
  /-- b0 to b15 (R20). The signs are also SIGNS (R38). -/
  regs : Vector BigReg 16
  /-- CTRL.IE (R32). -/
  ie : Bool
  /-- STATUS.BUSY, bit 0 (R33). With `cmd` it is the in-flight command (R41). -/
  busy : Bool
  /-- STATUS.DONE, bit 1 (R33); also the pending interrupt (R135). -/
  done : Bool
  /-- STATUS.FAULT, bit 2 (R33). -/
  fault : Bool
  /-- STATUS.CMD_OVR, bit 3 (R33). -/
  cmdOvr : Bool
  /-- STATUS.ACC_ERR, bit 4 (R33). -/
  accErr : Bool
  /-- STATUS.Z, bit 8 (R33). -/
  z : Bool
  /-- STATUS.N, bit 9 (R33). -/
  n : Bool
  /-- STATUS.LT, bit 10 (R33). -/
  lt : Bool
  /-- STATUS.EQ, bit 11 (R33). -/
  eq : Bool
  /-- STATUS.GT, bit 12 (R33). -/
  gt : Bool
  /-- CMD, the last accepted command word (R35). -/
  cmd : Word
  /-- CAUSE.CODE (R36). -/
  cause : Cause
  /-- FAULT_CMD (R37). -/
  faultCmd : Word
  /-- The level of the reset input (R143; log 6). -/
  resetIn : Bool
  /-- The steps still to come, first to last (R14). -/
  inputs : List Event
  /-- What the host's reads gave back, the latest first (R155; log 7). -/
  replies : List Reply
  /-- How many draws have been taken (R15; log 3). -/
  draws : Nat
  deriving DecidableEq, Repr

/-- A register as reset leaves it: M zero limbs and sign 0 (R44). -/
def zeroReg (c : Config) : BigReg := { sign := false, limbs := List.replicate c.maxLimbs 0#32 }

/-- The device with parameters `c` right after reset (R44, R146), nothing yet asked of it. -/
def State.resetFor (c : Config) : State :=
  { cfg := c, regs := Vector.replicate 16 (zeroReg c), ie := false,
    busy := false, done := false, fault := false, cmdOvr := false, accErr := false,
    z := false, n := false, lt := false, eq := false, gt := false,
    cmd := 0#32, cause := .none, faultCmd := 0#32,
    resetIn := false, inputs := [], replies := [], draws := 0 }

/-- The reference device right after reset (R44; the parameters are log 1's choice). -/
def State.reset : State := State.resetFor Config.reference

end Sys2Proof.Machine
end

