-- ==== Sys2Proof/Machine/Operands.lean ====
section
/-! DEFINITION. Magnitudes as limb vectors, and the reading and writing of a bignum register (R20 to R25). -/

namespace Sys2Proof.Machine

/-- val(T): the integer a limb vector stands for, least significant limb first (R21). -/
def limbsValue : List Word → Nat
  | [] => 0
  | l :: ls => l.toNat + 2 ^ 32 * limbsValue ls

/-- limb(v, 0) to limb(v, m-1) (R8). -/
def limbsOf : Nat → Nat → List Word
  | 0, _ => []
  | m + 1, v => BitVec.ofNat 32 v :: limbsOf m (v / 2 ^ 32)

/-- CAP = 2^(32*M) (R25). -/
def capacity (c : Config) : Nat := 2 ^ (32 * c.maxLimbs)

/-- mag(i) of a register: the sum over its M limbs (R22). -/
def regMag (c : Config) (r : BigReg) : Nat := limbsValue (r.limbs.take c.maxLimbs)

/-- The value a command reads (R22): a sign bit on magnitude 0 does not make it negative. -/
def regValue (c : Config) (r : BigReg) : Int :=
  if r.sign = true ∧ regMag c r ≠ 0 then -(regMag c r : Int) else (regMag c r : Int)

/-- x[i], the integer value of b_i (R9). -/
def readReg (s : State) (i : RegIdx) : Int := regValue s.cfg s.regs[i]

/-- The register that holds v: every limb written, a zero with sign 0 (R23). -/
def regOf (c : Config) (v : Int) : BigReg :=
  { sign := decide (v < 0), limbs := limbsOf c.maxLimbs v.natAbs }

/-- x[i] <- v (R23). -/
def writeReg (s : State) (i : RegIdx) (v : Int) : State :=
  { s with regs := s.regs.set i (regOf s.cfg v) }

/-- The limbs of |v|, the operand of a chain (R81, R82). -/
def magLimbs (c : Config) (v : Int) : List Word := limbsOf c.maxLimbs v.natAbs

/-- Gives a magnitude the sign asked for; zero is never negative (R87, R95, R101, R102). -/
def withSign (neg : Bool) (m : Nat) : Int := if neg = true ∧ m ≠ 0 then -(m : Int) else (m : Int)

/-- bitlen(a) of a magnitude: the least k with a < 2^k (R8). -/
def bitlen (a : Nat) : Nat := if a = 0 then 0 else a.log2 + 1

/-- logical length: the highest non-zero limb's index plus one (R24). -/
def logicalLength : List Word → Nat
  | [] => 0
  | l :: ls => if logicalLength ls = 0 then (if l = 0#32 then 0 else 1) else logicalLength ls + 1

end Sys2Proof.Machine
end

