-- ==== Sys2Proof/Machine/Flags.lean ====
section
/-! DEFINITION. The result flags (R39), the STATUS word (R33) and the interrupt output (R43). -/

namespace Sys2Proof.Machine

/-- What a successful command writes to STATUS (R39). -/
inductive FlagWrite where
  /-- Z and N, by every command that writes rd. -/
  | result (z n : Bool)
  /-- LT, EQ and GT, by CMP. -/
  | order (lt eq gt : Bool)
  deriving DecidableEq, Repr

/-- Z <- (v = 0); N <- (v < 0), for the value v written to rd (R39). -/
def resultFlags (v : Int) : FlagWrite := .result (decide (v = 0)) (decide (v < 0))

/-- LT <- (a < b); EQ <- (a = b); GT <- (a > b) (R104). -/
def orderFlags (a b : Int) : FlagWrite := .order (decide (a < b)) (decide (a = b)) (decide (a > b))

/-- Writes the flags a command sets; the others stay (R39, R104). -/
def setFlags (s : State) : FlagWrite → State
  | .result z n => { s with z := z, n := n }
  | .order lt eq gt => { s with lt := lt, eq := eq, gt := gt }

/-- STATUS as a host reads it (R33, R54): bit 0 is BUSY, bit 12 is GT. -/
def statusWord (s : State) : Word :=
  0#19 ++ BitVec.ofBool s.gt ++ BitVec.ofBool s.eq ++ BitVec.ofBool s.lt ++ BitVec.ofBool s.n ++
    BitVec.ofBool s.z ++ 0#3 ++ BitVec.ofBool s.accErr ++ BitVec.ofBool s.cmdOvr ++
    BitVec.ofBool s.fault ++ BitVec.ofBool s.done ++ BitVec.ofBool s.busy

/-- IRQ = CTRL.IE AND STATUS.DONE (R43). -/
def irq (s : State) : Bool := s.ie && s.done

end Sys2Proof.Machine
end

