-- ==== Sys2Proof/Machine/Ops.lean ====
section
/-! DEFINITION. The operations every command and host access is made of: completion (R57), taking a fault
(R129) and recovering from it (R131), command issue (R55, R56), and reset (R143, R144). -/

namespace Sys2Proof.Machine

/-- `Exec(w)`: success with its register and flag writes, or a fault with its cause (R57). -/
inductive ExecResult where
  | success (writes : List (RegIdx × Int)) (flags : FlagWrite)
  | fault (c : Cause)
  deriving DecidableEq, Repr

/-- The success of a command that writes v to rd and Z and N from it (R39). -/
def writesResult (rd : RegIdx) (v : Int) : ExecResult := .success [(rd, v)] (resultFlags v)

/-- A computed value goes to rd; a raised cause faults (R11). -/
def resultOf (rd : RegIdx) : Except Cause Int → ExecResult
  | .ok v => writesResult rd v
  | .error c => .fault c

/-- A result is written only if its magnitude is below CAP; else CAPACITY (R124). -/
def capacityChecked (c : Config) (v : Int) : Except Cause Int :=
  if v.natAbs < capacity c then .ok v else .error .capacity

/-- The register writes of a success, in the order given (R57). -/
def applyWrites (s : State) (ws : List (RegIdx × Int)) : State :=
  ws.foldl (fun s p => writeReg s p.1 p.2) s

/-- BUSY <- 0; DONE <- 1 (R57). -/
def endCommand (s : State) : State := { s with busy := false, done := true }

/-- Taking a fault (R129): the cause and the command word are recorded, and the command ends. -/
def faultEntry (s : State) (c : Cause) : State :=
  { endCommand s with cause := c, faultCmd := s.cmd, fault := true }

/-- The engine's completion step for the in-flight command (R57). -/
def complete (s : State) : ExecResult → State
  | .success ws fl => endCommand (setFlags (applyWrites s ws) fl)
  | .fault c => faultEntry s c

/-- A command always ends in a next state: its effect, or the fault it takes (R57). -/
def finish (s : State) (r : ExecResult) : Host.Outcome State Fault Refusal := .next (complete s r)

/-- A host write to STATUS: the write-1-to-clear bits (R34). Writing 1 to FAULT is the recovery from a
fault (R131): the record in CAUSE and FAULT_CMD stays. -/
def clearStatus (s : State) (v : Word) : State :=
  { s with
    done := s.done && !v.getLsbD 1
    fault := s.fault && !v.getLsbD 2
    cmdOvr := s.cmdOvr && !v.getLsbD 3
    accErr := s.accErr && !v.getLsbD 4 }

/-- A host write to CMD: accepted when BUSY = 0 and FAULT = 0 (R55), else dropped (R56). -/
def issue (s : State) (w : Word) : State :=
  if s.busy = false ∧ s.fault = false then { s with cmd := w, busy := true, done := false }
  else { s with cmdOvr := true }

/-- Every piece of the spec's state at its reset value (R44, R144). The reset input and the record of the
outside world are not the engine's to reset. -/
def resetState (s : State) : State :=
  { s with
    regs := Vector.replicate 16 (zeroReg s.cfg), ie := false,
    busy := false, done := false, fault := false, cmdOvr := false, accErr := false,
    z := false, n := false, lt := false, eq := false, gt := false,
    cmd := 0#32, cause := .none, faultCmd := 0#32 }

/-- A host write to CTRL (R32): SRST = 1 is a soft reset, whatever bit 0 holds; else IE is written. -/
def writeCtrl (s : State) (v : Word) : State :=
  if v.getLsbD 1 then resetState s else { s with ie := v.getLsbD 0 }

/-- ACC_ERR <- 1 (R51, R53). -/
def accessError (s : State) : State := { s with accErr := true }

/-- The host gets `data` back from a read (R54). -/
def reply (s : State) (addr size : Nat) (data : Word) : State :=
  { s with replies := ⟨addr, size, data⟩ :: s.replies }

/-- The code of a fault cause (R119). -/
def causeCode : Cause → BitVec 8
  | .none => 0#8
  | .illegalCmd => 1#8
  | .zeroDivide => 2#8
  | .operationSource => 3#8
  | .magnitudeOrder => 4#8
  | .capacity => 5#8
  | .modulus => 6#8

end Sys2Proof.Machine
end

