-- ==== Sys2Proof/Machine/AddSub.lean ====
section
/-! DEFINITION. The adder with its carry chain, the subtractor with its borrow chain, and the signed
wrapper over them (R81 to R92): ADDU, SUBU, ADD, SUB, NEG, INC, DEC. -/

namespace Sys2Proof.Machine

/-- CarryChain (R81) with carry `c` into the lowest limb: the sum limbs and the carry out of the top one.
The 33-bit sum s has s[31:0] as the limb and s[32] as the carry. -/
def carryChain : List Word → List Word → Bool → List Word × Bool
  | a :: as, b :: bs, c =>
    let s := a.toNat + b.toNat + c.toNat
    let rest := carryChain as bs (s.testBit 32)
    (BitVec.ofNat 32 s :: rest.1, rest.2)
  | [], _, c => ([], c)
  | _ :: _, [], c => ([], c)

/-- BorrowChain (R82) with borrow `bw` into the lowest limb: the difference limbs and the borrow out. -/
def borrowChain : List Word → List Word → Bool → List Word × Bool
  | a :: as, b :: bs, bw =>
    let d : Int := (a.toNat : Int) - (b.toNat : Int) - (bw.toNat : Int)
    let rest := borrowChain as bs (decide (d < 0))
    (BitVec.ofInt 32 d :: rest.1, rest.2)
  | [], _, bw => ([], bw)
  | _ :: _, [], bw => ([], bw)

/-- MagCmp (R83): the most significant limb that differs decides. -/
def magCmp : List Word → List Word → Ordering
  | a :: as, b :: bs =>
    match magCmp as bs with
    | .lt => .lt
    | .gt => .gt
    | .eq => if a.toNat < b.toNat then .lt else if a.toNat > b.toNat then .gt else .eq
  | [], _ => .eq
  | _ :: _, [] => .eq

/-- SignedAdd (R87): equal signs go through the carry chain, unequal ones through the borrow chain, the
larger magnitude first. -/
def signedAdd (c : Config) (a b : Int) : Except Cause Int :=
  let as := magLimbs c a
  let bs := magLimbs c b
  if decide (a < 0) = decide (b < 0) then
    let r := carryChain as bs false
    if r.2 = true then .error .capacity else .ok (withSign (decide (a < 0)) (limbsValue r.1))
  else if magCmp as bs ≠ .lt then
    .ok (withSign (decide (a < 0)) (limbsValue (borrowChain as bs false).1))
  else
    .ok (withSign (decide (b < 0)) (limbsValue (borrowChain bs as false).1))

/-- The unsigned add of R85 on the two magnitudes. -/
def unsignedAdd (c : Config) (a b : Int) : Except Cause Int :=
  let r := carryChain (magLimbs c a) (magLimbs c b) false
  if r.2 = true then .error .capacity else .ok (limbsValue r.1)

/-- The unsigned subtract of R86 on the two magnitudes. -/
def unsignedSub (c : Config) (a b : Int) : Except Cause Int :=
  if magCmp (magLimbs c a) (magLimbs c b) = .lt then .error .magnitudeOrder
  else .ok (limbsValue (borrowChain (magLimbs c a) (magLimbs c b) false).1)

/-- ADD (R88). -/
def execAdd (rd rs1 rs2 : RegIdx) (s : State) : Host.Outcome State Fault Refusal :=
  finish s (resultOf rd (signedAdd s.cfg (readReg s rs1) (readReg s rs2)))

/-- SUB (R89): the subtrahend's value is negated and added. -/
def execSub (rd rs1 rs2 : RegIdx) (s : State) : Host.Outcome State Fault Refusal :=
  finish s (resultOf rd (signedAdd s.cfg (readReg s rs1) (-readReg s rs2)))

/-- ADDU (R85): the signs of both sources are ignored. -/
def execAddu (rd rs1 rs2 : RegIdx) (s : State) : Host.Outcome State Fault Refusal :=
  finish s (resultOf rd (unsignedAdd s.cfg (readReg s rs1) (readReg s rs2)))

/-- SUBU (R86): the signs of both sources are ignored. -/
def execSubu (rd rs1 rs2 : RegIdx) (s : State) : Host.Outcome State Fault Refusal :=
  finish s (resultOf rd (unsignedSub s.cfg (readReg s rs1) (readReg s rs2)))

/-- NEG (R90). -/
def execNeg (rd rs1 : RegIdx) (s : State) : Host.Outcome State Fault Refusal :=
  finish s (writesResult rd (-readReg s rs1))

/-- INC (R91): rd is both the source and the destination. -/
def execInc (rd : RegIdx) (s : State) : Host.Outcome State Fault Refusal :=
  finish s (resultOf rd (signedAdd s.cfg (readReg s rd) 1))

/-- DEC (R92): rd is both the source and the destination. -/
def execDec (rd : RegIdx) (s : State) : Host.Outcome State Fault Refusal :=
  finish s (resultOf rd (signedAdd s.cfg (readReg s rd) (-1)))

end Sys2Proof.Machine
end

