-- ==== Sys2Proof/Machine/Shift.lean ====
section
/-! DEFINITION. The shifter (R101, R102): the magnitude is shifted and the sign kept. -/

namespace Sys2Proof.Machine

/-- |a| * 2^k against CAP (R101). A zero fits under every count, and a non-zero value shifted by 32M or
more never fits (R101's corner cases), so the power is only formed for smaller counts. DEDUCED (log 9). -/
def shlMag (c : Config) (m k : Nat) : Except Cause Nat :=
  if m = 0 then .ok 0
  else if 32 * c.maxLimbs ≤ k then .error .capacity
  else if m * 2 ^ k < capacity c then .ok (m * 2 ^ k)
  else .error .capacity

/-- |a| div 2^k (R102). A count of 32M or more gives 0 (R102's corner cases). -/
def shrMag (c : Config) (m k : Nat) : Nat := if 32 * c.maxLimbs ≤ k then 0 else m / 2 ^ k

/-- SHL's result for a value a and count k (R101). -/
def shlValue (c : Config) (a k : Int) : Except Cause Int :=
  if k < 0 then .error .operationSource
  else match shlMag c a.natAbs k.natAbs with
    | .ok m => .ok (withSign (decide (a < 0)) m)
    | .error e => .error e

/-- SHR's result for a value a and count k (R102). -/
def shrValue (c : Config) (a k : Int) : Except Cause Int :=
  if k < 0 then .error .operationSource
  else .ok (withSign (decide (a < 0)) (shrMag c a.natAbs k.natAbs))

/-- SHL (R101). -/
def execShl (rd rs1 rs2 : RegIdx) (s : State) : Host.Outcome State Fault Refusal :=
  finish s (resultOf rd (shlValue s.cfg (readReg s rs1) (readReg s rs2)))

/-- SHR (R102): truncates toward zero. -/
def execShr (rd rs1 rs2 : RegIdx) (s : State) : Host.Outcome State Fault Refusal :=
  finish s (resultOf rd (shrValue s.cfg (readReg s rs1) (readReg s rs2)))

end Sys2Proof.Machine
end

