-- ==== Sys2Proof/Machine/CompareBits.lean ====
section
/-! DEFINITION. The comparator, bit length and bit access (R104, R106, R107). -/

namespace Sys2Proof.Machine

/-- CMP (R104): the integer order; no register is written and Z and N stay. -/
def execCmp (rs1 rs2 : RegIdx) (s : State) : Host.Outcome State Fault Refusal :=
  finish s (.success [] (orderFlags (readReg s rs1) (readReg s rs2)))

/-- BITLEN (R106): the bit length of the magnitude. -/
def execBitlen (rd rs1 : RegIdx) (s : State) : Host.Outcome State Fault Refusal :=
  finish s (writesResult rd (bitlen (readReg s rs1).natAbs : Nat))

/-- BIT's result for a value a and index k: bit k of the magnitude, 0 from 32M up (R107). -/
def bitValue (c : Config) (a k : Int) : Except Cause Int :=
  if k < 0 then .error .operationSource
  else .ok ((shrMag c a.natAbs k.natAbs % 2 : Nat) : Int)

/-- BIT (R107). -/
def execBit (rd rs1 rs2 : RegIdx) (s : State) : Host.Outcome State Fault Refusal :=
  finish s (resultOf rd (bitValue s.cfg (readReg s rs1) (readReg s rs2)))

end Sys2Proof.Machine
end

