-- ==== Sys2Proof/Machine/Modular.lean ====
section
/-! DEFINITION. The Montgomery multiplier (R110 to R112) and the modular-exponentiation engine (R114 to
R116). Intermediates are exact and unbounded (R42, 93_implementation_defined.md I23). -/

namespace Sys2Proof.Machine

/-- R = 2^bitlen(n) (R110). -/
def montR (n : Nat) : Nat := 2 ^ bitlen n

/-- Half of x modulo an odd n. -/
def halveMod (n x : Nat) : Nat := if x % 2 = 0 then x / 2 else (x + n) / 2

/-- 1 halved k times modulo n: the inverse of 2^k modulo an odd n. -/
def invPow2 (n : Nat) : Nat → Nat
  | 0 => 1 % n
  | k + 1 => halveMod n (invPow2 n k)

/-- Rinv, the inverse of R modulo n (R110), found by halving because R is a power of two. DEDUCED (log 12). -/
def montRinv (n : Nat) : Nat := invPow2 n (bitlen n)

/-- n' = (R * Rinv - 1) div n (R110). -/
def montNprime (n : Nat) : Nat := (montR n * montRinv n - 1) / n

/-- MontProd (R111), with the subtraction when u >= n (90_conflicts.md C1). -/
def montProd (a b n : Nat) : Nat :=
  let t := a * b
  let m := (t * montNprime n) % montR n
  let u := (t + m * n) / montR n
  if u ≥ n then u - n else u

/-- MONTMUL's result, its checks in R112's order. -/
def montmulValue (c : Config) (a b n : Int) : Except Cause Int :=
  if a < 0 then .error .operationSource
  else if b < 0 then .error .operationSource
  else if n < 0 then .error .operationSource
  else if n = 0 then .error .zeroDivide
  else if n.natAbs % 2 = 0 ∨ n.natAbs = 1 then .error .modulus
  else capacityChecked c (montProd a.natAbs b.natAbs n.natAbs : Nat)

/-- MONTMUL (R112). -/
def execMontmul (rd rs1 rs2 rs3 : RegIdx) (s : State) : Host.Outcome State Fault Refusal :=
  finish s (resultOf rd (montmulValue s.cfg (readReg s rs1) (readReg s rs2) (readReg s rs3)))

/-- Square-and-multiply over bits k-1 down to 0 of e, reducing after every product (R116). -/
def modExpFrom (a e n : Nat) : Nat → Nat → Nat
  | 0, acc => acc
  | k + 1, acc =>
    let sq := (acc * acc) % n
    modExpFrom a e n k (if e.testBit k = true then (sq * a) % n else sq)

/-- (a^e) mod n (R114), by the binary method of R116: the power itself is never formed. -/
def modExp (a e n : Nat) : Nat := modExpFrom a e n (bitlen e) (1 % n)

/-- MODEXP's result, its checks in R115's order. -/
def modexpValue (a e n : Int) : Except Cause Int :=
  if a < 0 then .error .operationSource
  else if e < 0 then .error .operationSource
  else if n < 0 then .error .operationSource
  else if n = 0 then .error .zeroDivide
  else .ok (modExp a.natAbs e.natAbs n.natAbs : Nat)

/-- MODEXP (R115). -/
def execModexp (rd rs1 rs2 rs3 : RegIdx) (s : State) : Host.Outcome State Fault Refusal :=
  finish s (resultOf rd (modexpValue (readReg s rs1) (readReg s rs2) (readReg s rs3)))

end Sys2Proof.Machine
end

