-- ==== Sys2Proof/Machine/Move.lean ====
section
/-! DEFINITION. Copy and construction from a word (R108, R109). -/

namespace Sys2Proof.Machine

/-- MOV (R108): the value is copied, so a negative zero arrives as 0 with sign 0. -/
def execMov (rd rs1 : RegIdx) (s : State) : Host.Outcome State Fault Refusal :=
  finish s (writesResult rd (readReg s rs1))

/-- LDW (R109): the immediate is zero-extended. -/
def execLdw (rd : RegIdx) (imm16 : BitVec 16) (s : State) : Host.Outcome State Fault Refusal :=
  finish s (writesResult rd (imm16.toNat : Int))

end Sys2Proof.Machine
end

