-- ==== Sys2Proof/Machine/MulDiv.lean ====
section
/-! DEFINITION. The multiplier (R95) and the divider (R98). Their inner structure is not architectural
(R94, R99), so the meanings use the exact product, quotient and remainder. DEDUCED (log 8). -/

namespace Sys2Proof.Machine

/-- The signed product of R95: exact, negative when exactly one operand is, CAPACITY at or above CAP. -/
def signedMul (c : Config) (a b : Int) : Except Cause Int :=
  capacityChecked c (withSign (xor (decide (a < 0)) (decide (b < 0))) (a.natAbs * b.natAbs))

/-- MUL (R95). -/
def execMul (rd rs1 rs2 : RegIdx) (s : State) : Host.Outcome State Fault Refusal :=
  finish s (resultOf rd (signedMul s.cfg (readReg s rs1) (readReg s rs2)))

/-- DIVMOD's result for a dividend a and divisor b, its checks in R98's order. -/
def divmodResult (rd rs3 : RegIdx) (a b : Int) : ExecResult :=
  if rd = rs3 then .fault .illegalCmd
  else if a < 0 then .fault .operationSource
  else if b < 0 then .fault .operationSource
  else if b = 0 then .fault .zeroDivide
  else
    let q : Nat := a.natAbs / b.natAbs
    let r : Nat := a.natAbs % b.natAbs
    .success [(rd, (q : Int)), (rs3, (r : Int))] (resultFlags (q : Int))

/-- DIVMOD (R98). -/
def execDivmod (rd rs1 rs2 rs3 : RegIdx) (s : State) : Host.Outcome State Fault Refusal :=
  finish s (divmodResult rd rs3 (readReg s rs1) (readReg s rs2))

end Sys2Proof.Machine
end

