-- ==== Sys2Proof/Machine/HostPort.lean ====
section
/-! DEFINITION. The host port (R45 to R56), the engine's turn (R57, R72) and the reset input (R143). -/

namespace Sys2Proof.Machine

/-- The offsets the busy rule covers: SIGNS and the limb window (R53). -/
def isOperandOffset (off : Nat) : Bool := decide (off = 0x01C ∨ (0x1000 ≤ off ∧ off < 0x5000))

/-- The register a window offset names (R47). -/
def windowReg (off : Nat) : RegIdx := Fin.ofNat 16 ((off - 0x1000) / 0x400)

/-- The limb a window offset names (R47). -/
def windowLimb (off : Nat) : Nat := (off - 0x1000) % 0x400 / 4

/-- L[i][j] for j < M; a limb at or above M reads 0 (R47). -/
def readLimb (s : State) (i : RegIdx) (j : Nat) : Word :=
  if j < s.cfg.maxLimbs then s.regs[i].limbs.getD j 0#32 else 0#32

/-- L[i][j] <- v for j < M; a write to a limb at or above M is ignored (R47). -/
def writeLimb (s : State) (i : RegIdx) (j : Nat) (v : Word) : State :=
  if j < s.cfg.maxLimbs then
    { s with regs := s.regs.set i { s.regs[i] with limbs := s.regs[i].limbs.set j v } }
  else s

/-- The number whose bit i is the i-th of the list. -/
def bitsValue : List Bool → Nat
  | [] => 0
  | b :: bs => b.toNat + 2 * bitsValue bs

/-- SIGNS as a host reads it (R38): the sign bits as stored, a negative zero's too. -/
def signsWord (s : State) : Word := BitVec.ofNat 32 (bitsValue (s.regs.toList.map BigReg.sign))

/-- A host write to SIGNS (R38): S[i] <- v[i]; bits [31:16] are ignored. -/
def writeSigns (s : State) (v : Word) : State :=
  { s with regs := Vector.ofFn fun i : Fin 16 => { s.regs[i] with sign := v.getLsbD i.val } }

/-- CONFIG (R31): {M[15:0], 16, 32}. -/
def configWord (c : Config) : Word := BitVec.ofNat 16 c.maxLimbs ++ 16#8 ++ 32#8

/-- The value of a normal read at an aligned offset, the busy rule apart (R54's case list). -/
def readWord (s : State) (off : Nat) : Word :=
  if off = 0x000 then 0x42494743#32
  else if off = 0x004 then configWord s.cfg
  else if off = 0x008 then 0#31 ++ BitVec.ofBool s.ie
  else if off = 0x00C then statusWord s
  else if off = 0x010 then s.cmd
  else if off = 0x014 then 0#24 ++ causeCode s.cause
  else if off = 0x018 then s.faultCmd
  else if off = 0x01C then signsWord s
  else if 0x1000 ≤ off ∧ off < 0x5000 then readLimb s (windowReg off) (windowLimb off)
  else 0#32

/-- The effect of a normal write at an aligned offset, the busy rule apart (R54's case list). The read-only
registers and the reserved offsets ignore it. -/
def writeWord (s : State) (off : Nat) (v : Word) : State :=
  if off = 0x008 then writeCtrl s v
  else if off = 0x00C then clearStatus s v
  else if off = 0x010 then issue s v
  else if off = 0x01C then writeSigns s v
  else if 0x1000 ≤ off ∧ off < 0x5000 then writeLimb s (windowReg off) (windowLimb off) v
  else s

/-- A normal access: 4 bytes at a multiple of 4 (R51). -/
def isNormal (off size : Nat) : Bool := decide (size = 4 ∧ off % 4 = 0)

/-- HostRead(off, n) (R54): the value given back and the state after. -/
def hostRead (s : State) (off size : Nat) : Word × State :=
  if isNormal off size = false then (0#32, accessError s)
  else if isOperandOffset off = true ∧ s.busy = true then
    (Config.draw s.draws, { accessError s with draws := s.draws + 1 })
  else (readWord s off, s)

/-- HostWrite(off, n, v) (R54). -/
def hostWrite (s : State) (off size : Nat) (v : Word) : State :=
  if isNormal off size = false then accessError s
  else if isOperandOffset off = true ∧ s.busy = true then accessError s
  else writeWord s off v

/-- The addresses of the aperture: 0x8000 bytes from BASE_ADDR (R45). -/
def inAperture (c : Config) (addr : Nat) : Bool :=
  decide (c.baseAddr ≤ addr ∧ addr < c.baseAddr + 0x8000)

/-- MemRead(addr, size) (R10). While reset is asserted it has no effect and reads 0 (R143). -/
def memRead (s : State) (addr size : Nat) : Host.Outcome State Fault Refusal :=
  if inAperture s.cfg addr = false then .fault (.outsideAperture addr)
  else if s.resetIn = true then .next (reply s addr size 0#32)
  else
    let r := hostRead s (addr - s.cfg.baseAddr) size
    .next (reply r.2 addr size r.1)

/-- MemWrite(addr, size, value) (R10). While reset is asserted it has no effect (R143). -/
def memWrite (s : State) (addr size : Nat) (value : Word) : Host.Outcome State Fault Refusal :=
  if inAperture s.cfg addr = false then .fault (.outsideAperture addr)
  else if s.resetIn = true then .next s
  else .next (hostWrite s (addr - s.cfg.baseAddr) size value)

/-- The completion step of the command in flight: decode, then execute; an illegal word faults (R72). -/
def runCommand (s : State) : Host.Outcome State Fault Refusal :=
  match decode s.cmd with
  | .ok i => exec i s
  | .error _ => finish s (.fault .illegalCmd)

/-- The engine's turn: its step is enabled exactly when BUSY = 1 (R14), and not while reset is asserted
(R143). A turn that is not enabled changes nothing. -/
def engineTurn (s : State) : Host.Outcome State Fault Refusal :=
  if s.busy = true ∧ s.resetIn = false then runCommand s else .next s

/-- The reset input takes a level (R143): every change of it, to asserted and to released, resets. DEDUCED (log 6). -/
def setResetPin (s : State) (asserted : Bool) : State :=
  if s.resetIn = asserted then s else { resetState s with resetIn := asserted }

/-- One step of the interleaving (R14). -/
def takeEvent (s : State) : Event → Host.Outcome State Fault Refusal
  | .read addr size => memRead s addr size
  | .write addr size value => memWrite s addr size value
  | .engine => engineTurn s
  | .resetPin asserted => .next (setResetPin s asserted)

/-- The next step: the first of the inputs, or the engine's turn when none is left, so that an accepted
command completes (R16). DESIGN CHOICE (log 2). -/
def nextStep (s : State) : Host.Outcome State Fault Refusal :=
  match s.inputs with
  | [] => engineTurn s
  | e :: rest => takeEvent { s with inputs := rest } e

/-- The word w accepted as the command in flight, with the engine's step next: what R55 leaves after a host
write of w to CMD, with FAULT 0 and reset released as an acceptance needs. DESIGN CHOICE (log 4). -/
def placeCommand (s : State) (w : Word) : State :=
  { s with cmd := w, busy := true, done := false, fault := false, resetIn := false,
           inputs := .engine :: s.inputs }

end Sys2Proof.Machine
end

