-- ==== Sys2Proof/Machine/Step.lean ====
section
/-! DEFINITION. step, the machine's one step, and the placing of a command for it to run. -/

namespace Sys2Proof.Machine

/-- One step of the total order of atomic steps (R61). -/
def step (s : State) : Host.Outcome State Fault Refusal := nextStep s

/-- `s` with the command in the low `nbits` bits of `w` in flight, so that the very next step runs it. A
command is the value written to CMD and nothing is fetched (R64), so this stands for an accepted write. -/
def State.withFetchWord (s : State) (nbits w : Nat) : State :=
  placeCommand s (BitVec.ofNat 32 (w % 2 ^ nbits))

end Sys2Proof.Machine
end

