-- ==== Sys2Proof/Machine/HostNotation.lean ====
section
/-! DEFINITION. The host program notation (R77) as bus steps, and the host's conversion of its big-endian
byte strings to limbs (R50). -/

namespace Sys2Proof.Machine

/-- `WR off, v` (R77). -/
def hostWr (c : Config) (off : Nat) (v : Word) : Event := .write (c.baseAddr + off) 4 v

/-- `RD off` (R77). -/
def hostRd (c : Config) (off : Nat) : Event := .read (c.baseAddr + off) 4

/-- `ISSUE <command>` (R77): a write of its word to CMD. -/
def hostIssue (c : Config) (i : Instr) : Event := hostWr c 0x010 (encode i)

/-- `WAIT` (R77) when `busyPolls` reads of STATUS come before the completion step: those reads, the
completion, and the read that sees BUSY = 0. -/
def hostWait (c : Config) (busyPolls : Nat) : List Event :=
  List.replicate busyPolls (hostRd c 0x00C) ++ [.engine, hostRd c 0x00C]

/-- `LIMB(i, j)`, the offset of limb j of b_i (R47, R77). -/
def limbOffset (i : RegIdx) (j : Nat) : Nat := 0x1000 + 0x400 * i.val + 4 * j

/-- B[nb-1-t], the byte t places from the end of a big-endian string, 0 before its start (R50). -/
def byteFromEnd (bs : List Byte) (t : Nat) : Byte := bs.reverse.getD t 0#8

/-- limb(v, j) of the value a big-endian byte string holds (R50). -/
def limbOfBytes (bs : List Byte) (j : Nat) : Word :=
  byteFromEnd bs (4 * j + 3) ++ byteFromEnd bs (4 * j + 2) ++ byteFromEnd bs (4 * j + 1) ++
    byteFromEnd bs (4 * j)

/-- The byte the aperture's little-endian lanes give address 4j+k of a limb: bits [8k+7:8k] (R48). -/
def byteLane (l : Word) (k : Nat) : Byte := l.extractLsb' (8 * k) 8

end Sys2Proof.Machine
end

