-- ==== Sys2Proof/Machine/Reference.lean ====
section
/-! DEFINITION. The spec's reference algorithms whose structure is not architectural: the schoolbook product
(R94), restoring division (R99), the limb form of the shifts (R103), the comparison by sign and limbs (R105),
the bit length by limbs (R106) and Montgomery exponentiation (R117). The meanings use the results; that
these algorithms give the same results is stated as obligations. -/

namespace Sys2Proof.Machine

/-- One pass of R94's inner loop: adds a * B to the partial product and writes the carry above it. -/
def productRow (a : Word) : List Word → List Word → Nat → List Word
  | b :: bs, p :: ps, c =>
    let t := p.toNat + a.toNat * b.toNat + c
    BitVec.ofNat 32 t :: productRow a bs ps (t / 2 ^ 32)
  | [], _ :: ps, c => BitVec.ofNat 32 c :: ps
  | _, [], _ => []

/-- R94's outer loop over the limbs of A. After its pass the lowest limb is final. -/
def productFrom (bs : List Word) : List Word → List Word → List Word
  | [], ps => ps
  | a :: as, ps =>
    match productRow a bs ps 0 with
    | p :: rest => p :: productFrom bs as rest
    | [] => []

/-- Product(A, B) (R94), with 2M limbs. -/
def product (as bs : List Word) : List Word :=
  productFrom bs as (List.replicate (as.length + bs.length) 0#32)

/-- R95 as written over the schoolbook product: CAPACITY when a limb at or above M is not 0. -/
def schoolbookMul (c : Config) (a b : Int) : Except Cause Int :=
  let p := product (magLimbs c a) (magLimbs c b)
  if (p.drop c.maxLimbs).any (fun l => l ≠ 0#32) = true then .error .capacity
  else .ok (withSign (xor (decide (a < 0)) (decide (b < 0))) (limbsValue (p.take c.maxLimbs)))

/-- R99's loop over bits k-1 down to 0 of a, from a quotient and remainder so far. -/
def restoringFrom (a b : Nat) : Nat → Nat → Nat → Nat × Nat
  | 0, q, r => (q, r)
  | k + 1, q, r =>
    let r2 := 2 * r + (a.testBit k).toNat
    if r2 ≥ b then restoringFrom a b k (q + 2 ^ k) (r2 - b) else restoringFrom a b k q r2

/-- Divide(a, b), restoring binary long division (R99). -/
def restoringDivide (a b : Nat) : Nat × Nat := restoringFrom a b (bitlen a) 0 0

/-- A[j - d], 0 below limb 0 (R103). -/
def limbBelow (as : List Word) (j d : Nat) : Word := if d ≤ j then as.getD (j - d) 0#32 else 0#32

/-- R103's SHL: whole limbs move by k div 32, then bits by k mod 32. -/
def shlLimbs (as : List Word) (k : Nat) : List Word :=
  (List.range as.length).map fun j =>
    ((limbBelow as j (k / 32) ++ limbBelow as j (k / 32 + 1)) <<< (k % 32)).extractLsb' 32 32

/-- R103's SHR. -/
def shrLimbs (as : List Word) (k : Nat) : List Word :=
  (List.range as.length).map fun j =>
    ((as.getD (j + k / 32 + 1) 0#32 ++ as.getD (j + k / 32) 0#32) >>> (k % 32)).extractLsb' 0 32

/-- Compare(a, b) by sign, then magnitude, reversed for two negatives (R105). -/
def compareValues (c : Config) (a b : Int) : Ordering :=
  if a < 0 ∧ 0 ≤ b then .lt
  else if 0 ≤ a ∧ b < 0 then .gt
  else if 0 ≤ a then magCmp (magLimbs c a) (magLimbs c b)
  else (magCmp (magLimbs c a) (magLimbs c b)).swap

/-- The source's bit length: the highest non-zero limb's index times 32 plus its highest set bit's
position, counted from 1 (R106). -/
def limbBitlen (as : List Word) : Nat :=
  if logicalLength as = 0 then 0
  else (logicalLength as - 1) * 32 + bitlen (as.getD (logicalLength as - 1) 0#32).toNat

/-- R117's loop over bits k-1 down to 0 of e, in Montgomery form. -/
def montExpFrom (am e n : Nat) : Nat → Nat → Nat
  | 0, acc => acc
  | k + 1, acc =>
    let sq := montProd acc acc n
    montExpFrom am e n k (if e.testBit k = true then montProd sq am n else sq)

/-- MontModExp(a, e, n) for an odd n >= 3 (R117). -/
def montModExp (a e n : Nat) : Nat :=
  montProd (montExpFrom (((a % n) * montR n) % n) e n (bitlen e) (montR n % n)) 1 n

end Sys2Proof.Machine
end

