-- ==== Sys2Proof/Machine/Roles.lean ====
section
/-! DEFINITION. The roles of the register fields (R71's Reads and Writes columns, R72) and the causes each
command can raise (R119), as the statements name them. -/

namespace Sys2Proof.Machine

/-- The registers a command writes (R71). -/
def destsOf : Instr → List RegIdx
  | .add rd _ _ => [rd]
  | .sub rd _ _ => [rd]
  | .addu rd _ _ => [rd]
  | .subu rd _ _ => [rd]
  | .mul rd _ _ => [rd]
  | .divmod rd _ _ rs3 => [rd, rs3]
  | .shl rd _ _ => [rd]
  | .shr rd _ _ => [rd]
  | .cmp _ _ => []
  | .bitlen rd _ => [rd]
  | .bit rd _ _ => [rd]
  | .mov rd _ => [rd]
  | .neg rd _ => [rd]
  | .inc rd => [rd]
  | .dec rd => [rd]
  | .ldw rd _ => [rd]
  | .montmul rd _ _ _ => [rd]
  | .modexp rd _ _ _ => [rd]

/-- The registers a command reads (R71). -/
def sourcesOf : Instr → List RegIdx
  | .add _ rs1 rs2 => [rs1, rs2]
  | .sub _ rs1 rs2 => [rs1, rs2]
  | .addu _ rs1 rs2 => [rs1, rs2]
  | .subu _ rs1 rs2 => [rs1, rs2]
  | .mul _ rs1 rs2 => [rs1, rs2]
  | .divmod _ rs1 rs2 _ => [rs1, rs2]
  | .shl _ rs1 rs2 => [rs1, rs2]
  | .shr _ rs1 rs2 => [rs1, rs2]
  | .cmp rs1 rs2 => [rs1, rs2]
  | .bitlen _ rs1 => [rs1]
  | .bit _ rs1 rs2 => [rs1, rs2]
  | .mov _ rs1 => [rs1]
  | .neg _ rs1 => [rs1]
  | .inc rd => [rd]
  | .dec rd => [rd]
  | .ldw _ _ => []
  | .montmul _ rs1 rs2 rs3 => [rs1, rs2, rs3]
  | .modexp _ rs1 rs2 rs3 => [rs1, rs2, rs3]

/-- The causes a command's execution can raise (R119). For DIVMOD, ILLEGAL_CMD stands for rd = rs3; every
other illegal word is found by the decoder. -/
def causesOf : Instr → List Cause
  | .add _ _ _ => [.capacity]
  | .sub _ _ _ => [.capacity]
  | .addu _ _ _ => [.capacity]
  | .subu _ _ _ => [.magnitudeOrder]
  | .mul _ _ _ => [.capacity]
  | .divmod _ _ _ _ => [.illegalCmd, .operationSource, .zeroDivide]
  | .shl _ _ _ => [.operationSource, .capacity]
  | .shr _ _ _ => [.operationSource]
  | .cmp _ _ => []
  | .bitlen _ _ => []
  | .bit _ _ _ => [.operationSource]
  | .mov _ _ => []
  | .neg _ _ => []
  | .inc _ => [.capacity]
  | .dec _ => [.capacity]
  | .ldw _ _ => []
  | .montmul _ _ _ _ => [.operationSource, .zeroDivide, .modulus, .capacity]
  | .modexp _ _ _ _ => [.operationSource, .zeroDivide]

end Sys2Proof.Machine
end

