-- ==== Sys2Proof/Safety.lean ====
section
/-! DEFINITION. The machine's invariant, in the terms the claims use, and the end of a run (R155). -/

namespace Sys2Proof.Machine

/-- Every bignum register has exactly M limbs (R20). -/
def State.LimbCount (s : State) : Prop := ∀ i : RegIdx, s.regs[i].limbs.length = s.cfg.maxLimbs

/-- A command in flight was accepted with FAULT = 0 and has cleared DONE (R55), and nothing sets
either while it runs. -/
def State.Handshake (s : State) : Prop := s.busy = true → s.done = false ∧ s.fault = false

/-- No value is both zero and negative, and at most one of LT, EQ and GT is 1 (R39). -/
def State.FlagsLegal (s : State) : Prop :=
  ¬(s.z = true ∧ s.n = true) ∧ ¬(s.lt = true ∧ s.eq = true) ∧ ¬(s.lt = true ∧ s.gt = true) ∧
    ¬(s.eq = true ∧ s.gt = true)

/-- FAULT = 1 only with a recorded cause, and a faulting word is recorded only with a cause (R129). -/
def State.FaultRecord (s : State) : Prop :=
  (s.fault = true → s.cause ≠ .none) ∧ (s.cause = .none → s.faultCmd = 0#32)

/-- While reset is asserted every piece of the spec's state has its reset value (R143). -/
def State.HeldInReset (s : State) : Prop := s.resetIn = true → resetState s = s

/-- What holds of every state a run can reach. -/
def State.Inv (s : State) : Prop :=
  s.cfg.wf = true ∧ s.LimbCount ∧ s.Handshake ∧ s.FlagsLegal ∧ s.FaultRecord ∧ s.HeldInReset

/-- The end of a host program's run: no step is left and no command is in flight (R155). -/
def State.Final (s : State) : Prop := s.inputs = [] ∧ s.busy = false

/-- A command's success as the statements write it (R57): v written to rd, Z and N from it, BUSY 0, DONE 1. -/
def resultState (s : State) (rd : RegIdx) (v : Int) : State :=
  { writeReg s rd v with z := decide (v = 0), n := decide (v < 0), busy := false, done := true }

/-- A command's fault as the statements write it (R129). -/
def faultState (s : State) (c : Cause) : State :=
  { s with cause := c, faultCmd := s.cmd, fault := true, busy := false, done := true }

/-- Everything outside the bignum registers, the result flags and the record of the command's end is as it
was: the part of the frame all commands share. -/
def SameSurroundings (s t : State) : Prop :=
  t.cfg = s.cfg ∧ t.ie = s.ie ∧ t.cmd = s.cmd ∧ t.cmdOvr = s.cmdOvr ∧ t.accErr = s.accErr ∧
    t.resetIn = s.resetIn ∧ t.inputs = s.inputs ∧ t.replies = s.replies ∧ t.draws = s.draws

/-- The address of a host access, if the event is one. -/
def Event.addr? : Event → Option Nat
  | .read addr _ => some addr
  | .write addr _ _ => some addr
  | .engine => none
  | .resetPin _ => none

end Sys2Proof.Machine
end

