-- ==== Sys2Proof/Certificates/Slice0/Obligations.lean ====
section
/-! DEFINITION. The statements for the provers, each from a numbered rule of the spec. `M` is
`s.cfg.maxLimbs` and CAP is `capacity s.cfg`, so a statement about every state is about every M. -/

open Sys2Proof Sys2Proof.Machine

/-! ## Encoding -/

/-- R78: decoding an encoded legal command gives the command back, every field at every value. -/
def Obligations.DecodeEncodeReturnsCommand : Prop :=
  ∀ i : Instr, i.wf = true → decode (encode i) = .ok i

/-- R78: the encoder's word is the sum Enc and EncI write, so that no field reaches into another. -/
def Obligations.EncodedWordIsTheSumOfItsFields : Prop :=
  ∀ (op : Nat) (rd rs1 rs2 rs3 : RegIdx) (imm : BitVec 16), op < 2 ^ 6 →
    (encodeRegs op rd rs1 rs2 rs3).toNat =
      op + rd.val * 2 ^ 8 + rs1.val * 2 ^ 12 + rs2.val * 2 ^ 16 + rs3.val * 2 ^ 20 ∧
    (encodeImm op rd imm).toNat = op + rd.val * 2 ^ 8 + imm.toNat * 2 ^ 16

/-- R80: a word that decodes is the one word of a legal command, so a word is exactly one command or illegal. -/
def Obligations.DecodedWordIsItsEncoding : Prop :=
  ∀ (w : Word) (i : Instr), decode w = .ok i → i.wf = true ∧ encode i = w

/-- R73: the illegal words are exactly those of its list. The unused fields are named per opcode, as R71
gives the formats: rs3 and [31:24] of R3; also rs2 of R2; rd, rs3 and [31:24] of RC; all but rd of R1; rs1 of
I16; [31:24] of R4. -/
def Obligations.IllegalWordsAreExactlyThoseListed : Prop :=
  ∀ w : Word,
    let op := w.toNat % 64
    let bits := fun lo len : Nat => w.toNat / 2 ^ lo % 2 ^ len
    ((∃ e, decode w = .error e) ↔
      op = 0x00 ∨ 0x13 ≤ op ∨ bits 6 2 ≠ 0 ∨
      (op ∈ [0x01, 0x02, 0x03, 0x04, 0x05, 0x07, 0x08, 0x0B] ∧ (bits 20 4 ≠ 0 ∨ bits 24 8 ≠ 0)) ∨
      (op ∈ [0x06, 0x11, 0x12] ∧ bits 24 8 ≠ 0) ∨
      (op = 0x09 ∧ (bits 8 4 ≠ 0 ∨ bits 20 4 ≠ 0 ∨ bits 24 8 ≠ 0)) ∨
      (op ∈ [0x0A, 0x0C, 0x0D] ∧ (bits 16 8 ≠ 0 ∨ bits 24 8 ≠ 0)) ∨
      (op ∈ [0x0E, 0x0F] ∧ (bits 12 12 ≠ 0 ∨ bits 24 8 ≠ 0)) ∨
      (op = 0x10 ∧ bits 12 4 ≠ 0) ∨
      (op = 0x06 ∧ bits 8 4 = bits 20 4))

/-- R79: example words of the spec decode to the commands it writes beside them, one per family. -/
def Obligations.SpecExampleWordsDecode : Prop :=
  decode 0x00021301#32 = .ok (.add 3 1 2) ∧ decode 0x00021304#32 = .ok (.subu 3 1 2) ∧
  decode 0x00021305#32 = .ok (.mul 3 1 2) ∧ decode 0x00421306#32 = .ok (.divmod 3 1 2 4) ∧
  decode 0x00021308#32 = .ok (.shr 3 1 2) ∧ decode 0x00021009#32 = .ok (.cmp 1 2) ∧
  decode 0x0000120A#32 = .ok (.bitlen 2 1) ∧ decode 0x0000040E#32 = .ok (.inc 4) ∧
  decode 0xFFFF0110#32 = .ok (.ldw 1 0xFFFF#16) ∧ decode 0x00321411#32 = .ok (.montmul 4 1 2 3) ∧
  decode 0x00321412#32 = .ok (.modexp 4 1 2 3)

/-! ## Registers -/

/-- R22 and R25: a register reads as its magnitude, negated when S = 1, so that S = 1 on magnitude 0 reads
as 0; the value lies strictly between -CAP and CAP. -/
def Obligations.RegisterReadsAsSignedMagnitudeInRange : Prop :=
  ∀ (s : State) (i : RegIdx),
    (s.regs[i].sign = false → readReg s i = limbsValue (s.regs[i].limbs.take s.cfg.maxLimbs)) ∧
    (s.regs[i].sign = true → readReg s i = -(limbsValue (s.regs[i].limbs.take s.cfg.maxLimbs) : Int)) ∧
    -(capacity s.cfg : Int) < readReg s i ∧ readReg s i < (capacity s.cfg : Int)

/-- R23: writing v makes limb j of b_i limb(v, j) for every j < M and no other limb, gives it sign 1 exactly
when v < 0, and leaves every other register; when |v| < CAP the register then reads as v. -/
def Obligations.WrittenRegisterHoldsItsValue : Prop :=
  ∀ (s : State) (i : RegIdx) (v : Int), v.natAbs < capacity s.cfg →
    (writeReg s i v).regs[i].limbs.length = s.cfg.maxLimbs ∧
    (∀ j, j < s.cfg.maxLimbs →
      ((writeReg s i v).regs[i].limbs.getD j 0#32).toNat = v.natAbs / 2 ^ (32 * j) % 2 ^ 32) ∧
    ((writeReg s i v).regs[i].sign = true ↔ v < 0) ∧
    readReg (writeReg s i v) i = v ∧
    (∀ k : RegIdx, k ≠ i → (writeReg s i v).regs[k] = s.regs[k])

/-! ## The chains -/

/-- R84: the carry chain's limbs and carry out make the exact sum, and the borrow chain's limbs less its
borrow out the exact difference; the carry and the borrow out are 1 exactly when R84 says. -/
def Obligations.ChainsAddAndSubtractExactly : Prop :=
  ∀ as bs : List Word, as.length = bs.length →
    let p := limbsValue as
    let q := limbsValue bs
    let cap := 2 ^ (32 * as.length)
    let sum := carryChain as bs false
    let dif := borrowChain as bs false
    sum.1.length = as.length ∧ limbsValue sum.1 + sum.2.toNat * cap = p + q ∧
    (sum.2 = true ↔ p + q ≥ cap) ∧
    dif.1.length = as.length ∧ (limbsValue dif.1 : Int) - (dif.2.toNat * cap : Nat) = (p : Int) - q ∧
    (dif.2 = true ↔ p < q) ∧ (p < q → limbsValue dif.1 + q = p + cap) ∧
    (q ≤ p → limbsValue dif.1 = p - q)

/-- R83 and R105: MagCmp is the integer comparison of two magnitudes, and the completed comparison by sign and
limbs that of two signed values. -/
def Obligations.LimbComparisonsAreIntegerOrder : Prop :=
  (∀ as bs : List Word, as.length = bs.length → magCmp as bs = compare (limbsValue as) (limbsValue bs)) ∧
  (∀ (c : Config) (a b : Int), a.natAbs < capacity c → b.natAbs < capacity c →
    compareValues c a b = compare a b)

/-- R87: for operands in range SignedAdd is the exact sum, and CAPACITY exactly when it does not fit. -/
def Obligations.SignedAddIsExactOrCapacity : Prop :=
  ∀ (c : Config) (a b : Int), a.natAbs < capacity c → b.natAbs < capacity c →
    ((a + b).natAbs < capacity c → signedAdd c a b = .ok (a + b)) ∧
    (capacity c ≤ (a + b).natAbs → signedAdd c a b = .error .capacity)

/-! ## Results, one per command -/

/-- R88. -/
def Obligations.AddWritesSum : Prop :=
  ∀ (s : State) (rd rs1 rs2 : RegIdx),
    let v := readReg s rs1 + readReg s rs2
    (v.natAbs < capacity s.cfg → exec (.add rd rs1 rs2) s = .next (resultState s rd v)) ∧
    (capacity s.cfg ≤ v.natAbs → exec (.add rd rs1 rs2) s = .next (faultState s .capacity))

/-- R89. -/
def Obligations.SubWritesDifference : Prop :=
  ∀ (s : State) (rd rs1 rs2 : RegIdx),
    let v := readReg s rs1 - readReg s rs2
    (v.natAbs < capacity s.cfg → exec (.sub rd rs1 rs2) s = .next (resultState s rd v)) ∧
    (capacity s.cfg ≤ v.natAbs → exec (.sub rd rs1 rs2) s = .next (faultState s .capacity))

/-- R85. -/
def Obligations.AdduWritesSumOfMagnitudes : Prop :=
  ∀ (s : State) (rd rs1 rs2 : RegIdx),
    let v := (readReg s rs1).natAbs + (readReg s rs2).natAbs
    (v < capacity s.cfg →
      exec (.addu rd rs1 rs2) s = .next { resultState s rd (v : Int) with n := false }) ∧
    (capacity s.cfg ≤ v → exec (.addu rd rs1 rs2) s = .next (faultState s .capacity))

/-- R86. -/
def Obligations.SubuWritesDifferenceOfMagnitudes : Prop :=
  ∀ (s : State) (rd rs1 rs2 : RegIdx),
    let a := (readReg s rs1).natAbs
    let b := (readReg s rs2).natAbs
    (b ≤ a → exec (.subu rd rs1 rs2) s = .next { resultState s rd ((a : Int) - b) with n := false }) ∧
    (a < b → exec (.subu rd rs1 rs2) s = .next (faultState s .magnitudeOrder))

/-- R91 and R92. The literal 1 is representable because M is at least 1. -/
def Obligations.IncAndDecStepByOne : Prop :=
  ∀ (s : State) (rd : RegIdx), s.cfg.wf = true →
    let a := readReg s rd
    (a ≠ (capacity s.cfg : Int) - 1 → exec (.inc rd) s = .next (resultState s rd (a + 1))) ∧
    (a = (capacity s.cfg : Int) - 1 → exec (.inc rd) s = .next (faultState s .capacity)) ∧
    (a ≠ -((capacity s.cfg : Int) - 1) → exec (.dec rd) s = .next (resultState s rd (a - 1))) ∧
    (a = -((capacity s.cfg : Int) - 1) → exec (.dec rd) s = .next (faultState s .capacity))

/-- R90 and R108: NEG and MOV always complete. -/
def Obligations.NegAndMovAlwaysComplete : Prop :=
  ∀ (s : State) (rd rs1 : RegIdx),
    exec (.neg rd rs1) s = .next (resultState s rd (-readReg s rs1)) ∧
    exec (.mov rd rs1) s = .next (resultState s rd (readReg s rs1))

/-- R109: LDW writes the zero-extended immediate; the register then reads as it, with N = 0. -/
def Obligations.LdwWritesZeroExtendedImmediate : Prop :=
  ∀ (s : State) (rd : RegIdx) (imm : BitVec 16), s.cfg.wf = true →
    exec (.ldw rd imm) s = .next { resultState s rd (imm.toNat : Int) with n := false } ∧
    readReg (resultState s rd (imm.toNat : Int)) rd = (imm.toNat : Int)

/-- R95. -/
def Obligations.MulWritesProduct : Prop :=
  ∀ (s : State) (rd rs1 rs2 : RegIdx),
    let v := readReg s rs1 * readReg s rs2
    (v.natAbs < capacity s.cfg → exec (.mul rd rs1 rs2) s = .next (resultState s rd v)) ∧
    (capacity s.cfg ≤ v.natAbs → exec (.mul rd rs1 rs2) s = .next (faultState s .capacity))

/-- R98, its faults in priority order. -/
def Obligations.DivmodWritesQuotientAndRemainder : Prop :=
  ∀ (s : State) (rd rs1 rs2 rs3 : RegIdx),
    let a := readReg s rs1
    let b := readReg s rs2
    (rd = rs3 → exec (.divmod rd rs1 rs2 rs3) s = .next (faultState s .illegalCmd)) ∧
    (rd ≠ rs3 → a < 0 ∨ b < 0 →
      exec (.divmod rd rs1 rs2 rs3) s = .next (faultState s .operationSource)) ∧
    (rd ≠ rs3 → 0 ≤ a → b = 0 → exec (.divmod rd rs1 rs2 rs3) s = .next (faultState s .zeroDivide)) ∧
    (rd ≠ rs3 → 0 ≤ a → 0 < b →
      exec (.divmod rd rs1 rs2 rs3) s =
        .next { writeReg (writeReg s rd (a / b)) rs3 (a % b) with
                z := decide (a / b = 0), n := false, busy := false, done := true })

/-- R101, its faults in order. -/
def Obligations.ShlShiftsMagnitudeLeft : Prop :=
  ∀ (s : State) (rd rs1 rs2 : RegIdx),
    let a := readReg s rs1
    let k := readReg s rs2
    (k < 0 → exec (.shl rd rs1 rs2) s = .next (faultState s .operationSource)) ∧
    (0 ≤ k → capacity s.cfg ≤ a.natAbs * 2 ^ k.toNat →
      exec (.shl rd rs1 rs2) s = .next (faultState s .capacity)) ∧
    (0 ≤ k → a.natAbs * 2 ^ k.toNat < capacity s.cfg →
      exec (.shl rd rs1 rs2) s = .next (resultState s rd (a * 2 ^ k.toNat)))

/-- R102: SHR truncates toward zero (`Int.tdiv`), and never raises CAPACITY. -/
def Obligations.ShrTruncatesTowardZero : Prop :=
  ∀ (s : State) (rd rs1 rs2 : RegIdx),
    let a := readReg s rs1
    let k := readReg s rs2
    (k < 0 → exec (.shr rd rs1 rs2) s = .next (faultState s .operationSource)) ∧
    (0 ≤ k → exec (.shr rd rs1 rs2) s = .next (resultState s rd (a.tdiv (2 ^ k.toNat))))

/-- R104: CMP sets exactly one of LT, EQ and GT, and writes nothing else but the end of the command. -/
def Obligations.CmpSetsIntegerOrder : Prop :=
  ∀ (s : State) (rs1 rs2 : RegIdx),
    let a := readReg s rs1
    let b := readReg s rs2
    exec (.cmp rs1 rs2) s =
      .next { s with lt := decide (a < b), eq := decide (a = b), gt := decide (a > b),
                     busy := false, done := true }

/-- R106: BITLEN writes the least k with |a| < 2^k, which is at most 32M and is what the source's formula over
the limbs gives. -/
def Obligations.BitlenWritesLeastBoundingPower : Prop :=
  ∀ (s : State) (rd rs1 : RegIdx), ∃ k : Nat,
    (readReg s rs1).natAbs < 2 ^ k ∧ (∀ j : Nat, (readReg s rs1).natAbs < 2 ^ j → k ≤ j) ∧
    k ≤ 32 * s.cfg.maxLimbs ∧ limbBitlen (magLimbs s.cfg (readReg s rs1)) = k ∧
    exec (.bitlen rd rs1) s = .next { resultState s rd (k : Int) with n := false }

/-- R107. -/
def Obligations.BitWritesMagnitudeBit : Prop :=
  ∀ (s : State) (rd rs1 rs2 : RegIdx),
    let a := readReg s rs1
    let k := readReg s rs2
    (k < 0 → exec (.bit rd rs1 rs2) s = .next (faultState s .operationSource)) ∧
    (0 ≤ k → exec (.bit rd rs1 rs2) s =
      .next { resultState s rd ((a.natAbs / 2 ^ k.toNat % 2 : Nat) : Int) with n := false })

/-- R112 with R110 and R111: the checks in order, then the formula over any Rinv that R110 describes. -/
def Obligations.MontmulWritesMontgomeryProduct : Prop :=
  ∀ (s : State) (rd rs1 rs2 rs3 : RegIdx),
    let a := readReg s rs1
    let b := readReg s rs2
    let n := readReg s rs3
    (a < 0 ∨ b < 0 ∨ n < 0 →
      exec (.montmul rd rs1 rs2 rs3) s = .next (faultState s .operationSource)) ∧
    (0 ≤ a → 0 ≤ b → n = 0 → exec (.montmul rd rs1 rs2 rs3) s = .next (faultState s .zeroDivide)) ∧
    (0 ≤ a → 0 ≤ b → 0 < n → n % 2 = 0 ∨ n = 1 →
      exec (.montmul rd rs1 rs2 rs3) s = .next (faultState s .modulus)) ∧
    (0 ≤ a → 0 ≤ b → 1 < n → n % 2 = 1 → ∀ rinv : Nat,
      let r := 2 ^ bitlen n.natAbs
      let n' := (r * rinv - 1) / n.natAbs
      let t := a.natAbs * b.natAbs
      let u := (t + t * n' % r * n.natAbs) / r
      let v := if u ≥ n.natAbs then u - n.natAbs else u
      1 ≤ rinv → rinv < n.natAbs → r * rinv % n.natAbs = 1 →
      (v < capacity s.cfg →
        exec (.montmul rd rs1 rs2 rs3) s = .next { resultState s rd (v : Int) with n := false }) ∧
      (capacity s.cfg ≤ v →
        exec (.montmul rd rs1 rs2 rs3) s = .next (faultState s .capacity)))

/-- R115 with R114: the checks in order, then the least residue of the power, with a^0 = 1. -/
def Obligations.ModexpWritesPowerResidue : Prop :=
  ∀ (s : State) (rd rs1 rs2 rs3 : RegIdx),
    let a := readReg s rs1
    let e := readReg s rs2
    let n := readReg s rs3
    (a < 0 ∨ e < 0 ∨ n < 0 →
      exec (.modexp rd rs1 rs2 rs3) s = .next (faultState s .operationSource)) ∧
    (0 ≤ a → 0 ≤ e → n = 0 → exec (.modexp rd rs1 rs2 rs3) s = .next (faultState s .zeroDivide)) ∧
    (0 ≤ a → 0 ≤ e → 0 < n →
      exec (.modexp rd rs1 rs2 rs3) s =
        .next { resultState s rd ((a.natAbs ^ e.natAbs % n.natAbs : Nat) : Int) with n := false })

/-! ## Laws of the families -/

/-- R93: each pair of commands that undo one another gives back a, with no fault between, and ADDU and
SUBU give |a| + |b| and |a| - |b|. -/
def Obligations.AddSubUndoEachOther : Prop :=
  ∀ (s : State) (rd rd' rs1 rs2 : RegIdx), s.cfg.wf = true → rd ≠ rs2 →
    let a := readReg s rs1
    let b := readReg s rs2
    ((a + b).natAbs < capacity s.cfg → ∃ t u, exec (.add rd rs1 rs2) s = .next t ∧
      exec (.sub rd' rd rs2) t = .next u ∧ readReg u rd' = a ∧ u.fault = s.fault) ∧
    ((a - b).natAbs < capacity s.cfg → ∃ t u, exec (.sub rd rs1 rs2) s = .next t ∧
      exec (.add rd' rd rs2) t = .next u ∧ readReg u rd' = a ∧ u.fault = s.fault) ∧
    (a.natAbs + b.natAbs < capacity s.cfg → ∃ t, exec (.addu rd rs1 rs2) s = .next t ∧
      readReg t rd = (a.natAbs : Int) + b.natAbs ∧ t.fault = s.fault) ∧
    (b.natAbs ≤ a.natAbs → ∃ t, exec (.subu rd rs1 rs2) s = .next t ∧
      readReg t rd = (a.natAbs : Int) - b.natAbs ∧ t.fault = s.fault) ∧
    (∃ t u, exec (.neg rd rs1) s = .next t ∧ exec (.neg rd' rd) t = .next u ∧ readReg u rd' = a ∧
      u.fault = s.fault) ∧
    (a < (capacity s.cfg : Int) - 1 → ∃ t u, exec (.inc rs1) s = .next t ∧
      exec (.dec rs1) t = .next u ∧ readReg u rs1 = a ∧ u.fault = s.fault)

/-- R97: the registers DIVMOD writes satisfy q*b + r = a and 0 <= r < b. -/
def Obligations.DivmodResultsSatisfyDivisionLaw : Prop :=
  ∀ (s : State) (rd rs1 rs2 rs3 : RegIdx), rd ≠ rs3 → 0 ≤ readReg s rs1 → 0 < readReg s rs2 →
    ∃ t, exec (.divmod rd rs1 rs2 rs3) s = .next t ∧
      readReg t rd * readReg s rs2 + readReg t rs3 = readReg s rs1 ∧
      0 ≤ readReg t rs3 ∧ readReg t rs3 < readReg s rs2

/-! ## Reference algorithms -/

/-- R94 and R95: the schoolbook product has 2M limbs and the exact value, and MUL's value is R95's text over it. -/
def Obligations.SchoolbookProductIsExact : Prop :=
  (∀ as bs : List Word, as.length = bs.length →
    (product as bs).length = 2 * as.length ∧
    limbsValue (product as bs) = limbsValue as * limbsValue bs) ∧
  (∀ (c : Config) (a b : Int), a.natAbs < capacity c → b.natAbs < capacity c →
    signedMul c a b = schoolbookMul c a b)

/-- R99 and R97: restoring division gives the quotient and the remainder. -/
def Obligations.RestoringDivisionIsExact : Prop :=
  ∀ a b : Nat, 0 < b → restoringDivide a b = (a / b, a % b)

/-- R103: the limb form of the shifts equals R101 (where the result fits) and R102. -/
def Obligations.LimbShiftsEqualValueShifts : Prop :=
  ∀ (c : Config) (m k : Nat), m < capacity c →
    (m * 2 ^ k < capacity c → limbsValue (shlLimbs (limbsOf c.maxLimbs m) k) = m * 2 ^ k) ∧
    limbsValue (shrLimbs (limbsOf c.maxLimbs m) k) = m / 2 ^ k

/-- R110: the Montgomery constants of an odd n >= 3 are what R110 says, and Rinv is the only such number. -/
def Obligations.MontgomeryConstantsMeetTheirDefinition : Prop :=
  ∀ n : Nat, 3 ≤ n → n % 2 = 1 →
    n < montR n ∧ Nat.Coprime (montR n) n ∧
    1 ≤ montRinv n ∧ montRinv n < n ∧ montR n * montRinv n % n = 1 ∧
    (∀ x : Nat, 1 ≤ x → x < n → montR n * x % n = 1 → x = montRinv n) ∧
    n * montNprime n = montR n * montRinv n - 1 ∧ montNprime n < montR n ∧
    n * montNprime n % montR n = montR n - 1

/-- R113: for reduced operands MontProd is the reduced product by Rinv, keeps Montgomery form, and
leaves it by a product with 1. -/
def Obligations.MontProdIsReducedMontgomeryProduct : Prop :=
  ∀ n a b : Nat, 3 ≤ n → n % 2 = 1 → a < n → b < n →
    (a * b + a * b * montNprime n % montR n * n) / montR n < 2 * n ∧
    montProd a b n < n ∧ montProd a b n = a * b * montRinv n % n ∧
    montProd (a * montR n % n) (b * montR n % n) n = a * b * montR n % n ∧
    montProd a 1 n = a * montRinv n % n

/-- R116 and R117: both methods give (a^e) mod n, the Montgomery one for every odd n >= 3. -/
def Obligations.BothExponentiationMethodsGiveThePower : Prop :=
  ∀ a e n : Nat, 1 ≤ n →
    modExp a e n = a ^ e % n ∧ (3 ≤ n → n % 2 = 1 → montModExp a e n = a ^ e % n)

/-! ## Frames -/

/-- Frame of the seventeen commands that write rd (DIVMOD also writes rs3): every register but the command's
destinations, LT, EQ, GT and the surroundings are unchanged. There is no memory (R45). -/
def Obligations.WritingCommandsLeaveTheRest : Prop :=
  ∀ (i : Instr) (s t : State), destsOf i ≠ [] → exec i s = .next t →
    (∀ r : RegIdx, r ∉ destsOf i → t.regs[r] = s.regs[r]) ∧ t.lt = s.lt ∧ t.eq = s.eq ∧
    t.gt = s.gt ∧ SameSurroundings s t

/-- Frame of CMP: every register, Z, N, the fault record and the surroundings are unchanged. -/
def Obligations.CmpLeavesRegistersAndResultFlags : Prop :=
  ∀ (rs1 rs2 : RegIdx) (s t : State), exec (.cmp rs1 rs2) s = .next t →
    t.regs = s.regs ∧ t.z = s.z ∧ t.n = s.n ∧ t.fault = s.fault ∧ t.cause = s.cause ∧
    t.faultCmd = s.faultCmd ∧ SameSurroundings s t

/-- R39: after a success of a command that writes rd, Z and N are those of the value rd now holds. -/
def Obligations.ResultFlagsDescribeTheDestination : Prop :=
  ∀ (i : Instr) (rd : RegIdx) (s t : State), s.cfg.wf = true → (destsOf i).head? = some rd →
    s.fault = false → exec i s = .next t → t.fault = false →
    t.z = decide (readReg t rd = 0) ∧ t.n = decide (readReg t rd < 0)

/-! ## Faults -/

/-- R119, R129 and R130: every command ends in exactly the fault state of a cause R119 lists for it, or
succeeds with FAULT, CAUSE and FAULT_CMD as they were, BUSY 0 and DONE 1. -/
def Obligations.CommandsFaultPreciselyOrSucceed : Prop :=
  ∀ (i : Instr) (s : State),
    (∃ c ∈ causesOf i, exec i s = .next (faultState s c)) ∨
    (∃ t, exec i s = .next t ∧ t.fault = s.fault ∧ t.cause = s.cause ∧ t.faultCmd = s.faultCmd ∧
      t.busy = false ∧ t.done = true)

/-- R120 and R129: an illegal word in flight ends in the fault ILLEGAL_CMD, whatever its operands. That the
engine takes its turn at once when no input is left is the model's choice (log 2). -/
def Obligations.IllegalWordTakesIllegalCmdFault : Prop :=
  ∀ (s : State) (e : DecodeError) (rest : List Event), s.busy = true → s.resetIn = false →
    decode s.cmd = .error e →
    (s.inputs = .engine :: rest → step s = .next (faultState { s with inputs := rest } .illegalCmd)) ∧
    (s.inputs = [] → step s = .next (faultState s .illegalCmd))

/-- R36, R37: a step changes CAUSE or FAULT_CMD only when it is the completion of a command in flight that
faults, or a reset: a change of the reset input, or a CTRL write with SRST = 1. -/
def Obligations.FaultRecordChangesOnlyByFaultOrReset : Prop :=
  ∀ s t : State, step s = .next t →
    (t.cause = s.cause ∧ t.faultCmd = s.faultCmd) ∨
    (s.busy = true ∧ t.fault = true ∧ t.cause ≠ .none ∧ t.faultCmd = s.cmd) ∨
    (resetState t = t ∧ ∃ e rest, s.inputs = e :: rest ∧
      ((∃ level : Bool, e = .resetPin level ∧ s.resetIn ≠ level) ∨
        (s.resetIn = false ∧ ∃ v : Word, e = hostWr s.cfg 0x008 v ∧ v.getLsbD 1 = true)))

/-! ## The machine's step -/

/-- R57 and R72: when the engine's step comes and the word in flight decodes to i, the step is exec of i on
the state with that turn taken from the inputs; a word that `withFetchWord` places runs so at the next step.
With BUSY = 0 the turn changes nothing, whatever word CMD still holds (R14). The turn's place in the inputs,
its coming when none is left, and `withFetchWord` are the model's (logs 2 and 4). -/
def Obligations.EngineStepRunsDecodedCommand : Prop :=
  ∀ (s : State) (i : Instr) (rest : List Event),
    (s.busy = true → s.resetIn = false → decode s.cmd = .ok i → s.inputs = .engine :: rest →
      step s = exec i { s with inputs := rest }) ∧
    (s.busy = true → s.resetIn = false → decode s.cmd = .ok i → s.inputs = [] → step s = exec i s) ∧
    (∀ w : Word, decode w = .ok i →
      step (s.withFetchWord 32 w.toNat) =
        exec i { s with cmd := w, busy := true, done := false, fault := false, resetIn := false }) ∧
    (s.busy = false → s.inputs = .engine :: rest → step s = .next { s with inputs := rest }) ∧
    (s.busy = false → s.inputs = [] → step s = .next s)

/-- R16, R155: however many reads of STATUS a host makes first, the command in flight completes after them, the
run has then ended, and each read returned one reply. The engine's turn when no input is left is the model's
fairness (log 2). -/
def Obligations.CommandCompletesAfterAnyStatusPolls : Prop :=
  ∀ (s : State) (polls : Nat), s.busy = true → s.resetIn = false →
    s.inputs = List.replicate polls (hostRd s.cfg 0x00C) →
    ∃ t, Host.Core.run Sys2Proof.core (polls + 1) s = .next t ∧ t.Final ∧ t.done = true ∧
      t.replies.length = s.replies.length + polls

/-- R10, R59: the machine stops only on a host access outside the aperture, and always on one; it never
refuses. The stop is the model's choice (log 5). -/
def Obligations.OnlyAccessesOutsideTheApertureStop : Prop :=
  ∀ s : State,
    (∀ r, step s ≠ .refused r) ∧
    (∀ f, step s = .fault f ↔
      ∃ e rest addr, s.inputs = e :: rest ∧ e.addr? = some addr ∧ inAperture s.cfg addr = false ∧
        f = .outsideAperture addr)

/-- The invariant holds of every device right after reset. Its last part is about the model's reset input
(log 6). -/
def Obligations.ResetMeetsTheInvariant : Prop :=
  ∀ c : Config, c.wf = true → (State.resetFor c).Inv

/-- The invariant is kept by every step: host accesses, completions, faults and resets alike. -/
def Obligations.EveryStepKeepsTheInvariant : Prop :=
  ∀ s t : State, s.Inv → step s = .next t → t.Inv

/-! ## The host port -/

/-- R44 and R143: what reset leaves, as a host reads it, and IRQ low. -/
def Obligations.ResetLeavesTheListedValues : Prop :=
  ∀ c : Config, c.wf = true →
    let s := State.resetFor c
    (∀ i : RegIdx, s.regs[i].sign = false ∧ s.regs[i].limbs = List.replicate c.maxLimbs 0#32 ∧
      readReg s i = 0) ∧
    readWord s 0x000 = 0x42494743#32 ∧
    readWord s 0x004 = BitVec.ofNat 32 (c.maxLimbs * 2 ^ 16 + 16 * 2 ^ 8 + 32) ∧
    readWord s 0x008 = 0#32 ∧ readWord s 0x00C = 0#32 ∧ readWord s 0x010 = 0#32 ∧
    readWord s 0x014 = 0#32 ∧ readWord s 0x018 = 0#32 ∧ readWord s 0x01C = 0#32 ∧
    s.cause = .none ∧ s.busy = false ∧ irq s = false

/-- R33: each bit of STATUS is the field R33 puts there, and every other bit is 0. -/
def Obligations.StatusWordHasTheListedBits : Prop :=
  ∀ s : State,
    (readWord s 0x00C).getLsbD 0 = s.busy ∧ (readWord s 0x00C).getLsbD 1 = s.done ∧
    (readWord s 0x00C).getLsbD 2 = s.fault ∧ (readWord s 0x00C).getLsbD 3 = s.cmdOvr ∧
    (readWord s 0x00C).getLsbD 4 = s.accErr ∧ (readWord s 0x00C).getLsbD 8 = s.z ∧
    (readWord s 0x00C).getLsbD 9 = s.n ∧ (readWord s 0x00C).getLsbD 10 = s.lt ∧
    (readWord s 0x00C).getLsbD 11 = s.eq ∧ (readWord s 0x00C).getLsbD 12 = s.gt ∧
    ∀ k : Nat, k ∈ [5, 6, 7] ∨ 13 ≤ k → (readWord s 0x00C).getLsbD k = false

/-- R54, R61: a normal read that R53's rule does not cover (its offset is not 0x01C nor in 0x1000 to 0x4FFC, or
BUSY = 0) only gives its value back and is used up. That value, in every state, for ID, CONFIG, CTRL, CMD, CAUSE
(R119's codes) and FAULT_CMD; STATUS, SIGNS and the limbs have statements of their own. -/
def Obligations.NormalReadsHaveNoSideEffect : Prop :=
  (∀ (s : State) (off : Nat) (rest : List Event), s.inputs = hostRd s.cfg off :: rest →
    s.resetIn = false → off < 0x8000 → off % 4 = 0 →
    (off ≠ 0x01C ∧ ¬(0x1000 ≤ off ∧ off ≤ 0x4FFC)) ∨ s.busy = false →
    step s = .next { s with inputs := rest,
                            replies := ⟨s.cfg.baseAddr + off, 4, readWord s off⟩ :: s.replies }) ∧
  (∀ s : State,
    readWord s 0x000 = 0x42494743#32 ∧
    readWord s 0x004 = BitVec.ofNat 32 (s.cfg.maxLimbs * 2 ^ 16 + 16 * 2 ^ 8 + 32) ∧
    readWord s 0x008 = (if s.ie = true then 1#32 else 0#32) ∧
    readWord s 0x010 = s.cmd ∧
    (s.cause = .none → readWord s 0x014 = 0#32) ∧
    (s.cause = .illegalCmd → readWord s 0x014 = 1#32) ∧
    (s.cause = .zeroDivide → readWord s 0x014 = 2#32) ∧
    (s.cause = .operationSource → readWord s 0x014 = 3#32) ∧
    (s.cause = .magnitudeOrder → readWord s 0x014 = 4#32) ∧
    (s.cause = .capacity → readWord s 0x014 = 5#32) ∧
    (s.cause = .modulus → readWord s 0x014 = 6#32) ∧
    readWord s 0x018 = s.faultCmd)

/-- R47, R54, R26: the window reads and writes limb j of b_i at 0x1000 + 0x400*i + 4*j; at j >= M it reads 0 and
ignores writes. With BUSY = 0 the step that takes a host's write there changes exactly that limb, and nothing
at j >= M, but for the input it uses up. -/
def Obligations.LimbWindowReachesItsLimb : Prop :=
  ∀ (s : State) (i : RegIdx) (j : Nat) (v : Word), s.Inv → j ≤ 255 →
    (j < s.cfg.maxLimbs → readWord s (limbOffset i j) = s.regs[i].limbs.getD j 0#32) ∧
    (s.cfg.maxLimbs ≤ j → readWord s (limbOffset i j) = 0#32 ∧
      writeWord s (limbOffset i j) v = s) ∧
    (j < s.cfg.maxLimbs → ∀ (i' : RegIdx) (j' : Nat), j' ≤ 255 →
      readWord (writeWord s (limbOffset i j) v) (limbOffset i' j') =
        if i' = i ∧ j' = j then v else readWord s (limbOffset i' j')) ∧
    (∀ rest : List Event, s.inputs = hostWr s.cfg (0x1000 + 0x400 * i.val + 4 * j) v :: rest →
      s.resetIn = false → s.busy = false →
      (j < s.cfg.maxLimbs → step s = .next { s with
        inputs := rest, regs := s.regs.set i { s.regs[i] with limbs := s.regs[i].limbs.set j v } }) ∧
      (s.cfg.maxLimbs ≤ j → step s = .next { s with inputs := rest }))

/-- R38, R54, R26: bit i of SIGNS is S[i], bits [31:16] read 0, and a write stores bits [15:0] and no limb. With
BUSY = 0 the step that takes a host's write of SIGNS changes exactly the sign bits, but for the input it uses up. -/
def Obligations.SignsRegisterHoldsTheSignBits : Prop :=
  ∀ (s : State) (v : Word),
    (∀ i : RegIdx, (readWord s 0x01C).getLsbD i.val = s.regs[i].sign) ∧
    (∀ k : Nat, 16 ≤ k → (readWord s 0x01C).getLsbD k = false) ∧
    (∀ i : RegIdx, (writeWord s 0x01C v).regs[i].sign = v.getLsbD i.val ∧
      (writeWord s 0x01C v).regs[i].limbs = s.regs[i].limbs) ∧
    (∀ rest : List Event, s.inputs = hostWr s.cfg 0x01C v :: rest → s.resetIn = false → s.busy = false →
      ∃ regs : Vector BigReg 16, step s = .next { s with inputs := rest, regs := regs } ∧
        ∀ i : RegIdx, regs[i].sign = v.getLsbD i.val ∧ regs[i].limbs = s.regs[i].limbs)

/-- R53: while BUSY = 1 an access to SIGNS or to the limb window, 0x1000 to 0x4FFC, sets ACC_ERR; a read gives
a draw, whatever word the draw is, and a write is ignored. The count of draws is the model's (log 3). -/
def Obligations.BusyRuleBlocksOperandAccesses : Prop :=
  ∀ (s : State) (off : Nat) (v : Word) (rest : List Event), s.busy = true → s.resetIn = false →
    off % 4 = 0 → off = 0x01C ∨ (0x1000 ≤ off ∧ off ≤ 0x4FFC) →
    (s.inputs = hostRd s.cfg off :: rest → ∃ d : Word,
      step s = .next { s with inputs := rest, accErr := true, draws := s.draws + 1,
                              replies := ⟨s.cfg.baseAddr + off, 4, d⟩ :: s.replies }) ∧
    (s.inputs = hostWr s.cfg off v :: rest →
      step s = .next { s with inputs := rest, accErr := true })

/-- R51: an access of another size or alignment sets ACC_ERR, reads 0 and writes nothing. That an over-long
access which starts inside the aperture and runs over its end is one of these is the model's choice (log 5). -/
def Obligations.AbnormalAccessesSetAccErr : Prop :=
  ∀ (s : State) (off size : Nat) (v : Word) (rest : List Event), s.resetIn = false → off < 0x8000 →
    size ≠ 4 ∨ off % 4 ≠ 0 →
    (s.inputs = .read (s.cfg.baseAddr + off) size :: rest →
      step s = .next { s with inputs := rest, accErr := true,
                              replies := ⟨s.cfg.baseAddr + off, size, 0#32⟩ :: s.replies }) ∧
    (s.inputs = .write (s.cfg.baseAddr + off) size v :: rest →
      step s = .next { s with inputs := rest, accErr := true })

/-- R34: a write to STATUS clears exactly the W1C bits written as 1, whether or not BUSY = 1. -/
def Obligations.StatusWriteClearsBitsWrittenOne : Prop :=
  ∀ (s : State) (v : Word) (rest : List Event), s.inputs = hostWr s.cfg 0x00C v :: rest →
    s.resetIn = false →
    step s = .next { s with inputs := rest,
                            done := s.done && !v.getLsbD 1, fault := s.fault && !v.getLsbD 2,
                            cmdOvr := s.cmdOvr && !v.getLsbD 3, accErr := s.accErr && !v.getLsbD 4 }

/-- R55 and R56: a CMD write is accepted exactly when BUSY = 0 and FAULT = 0; else only CMD_OVR is set. -/
def Obligations.CommandWriteIsAcceptedOrDropped : Prop :=
  ∀ (s : State) (w : Word) (rest : List Event), s.inputs = hostWr s.cfg 0x010 w :: rest →
    s.resetIn = false →
    (s.busy = false → s.fault = false →
      step s = .next { s with inputs := rest, cmd := w, busy := true, done := false }) ∧
    (s.busy = true ∨ s.fault = true → step s = .next { s with inputs := rest, cmdOvr := true })

/-- R144 and R145: a CTRL write with SRST = 1 gives every piece of state its reset value, a command in
flight aborted with the rest; with SRST = 0 it writes IE alone. -/
def Obligations.SoftResetGivesResetValues : Prop :=
  ∀ (s : State) (v : Word) (rest : List Event), s.inputs = hostWr s.cfg 0x008 v :: rest →
    s.resetIn = false →
    (v.getLsbD 1 = true → step s = .next { State.resetFor s.cfg with
      inputs := rest, replies := s.replies, draws := s.draws }) ∧
    (v.getLsbD 1 = false → step s = .next { s with inputs := rest, ie := v.getLsbD 0 })

/-- R143: a change of the reset input resets; while it is asserted no access and no engine turn has an
effect, and reads give 0. The level as an input event is the model's form (log 6). -/
def Obligations.ResetInputResetsAndHolds : Prop :=
  ∀ (s : State) (rest : List Event),
    (∀ level : Bool, s.inputs = .resetPin level :: rest → s.resetIn ≠ level →
      step s = .next { State.resetFor s.cfg with
        resetIn := level, inputs := rest, replies := s.replies, draws := s.draws }) ∧
    (s.resetIn = true →
      (s.inputs = [] → step s = .next s) ∧
      (s.inputs = .engine :: rest → step s = .next { s with inputs := rest }) ∧
      (∀ addr size : Nat, s.inputs = .read addr size :: rest → inAperture s.cfg addr = true →
        step s = .next { s with inputs := rest, replies := ⟨addr, size, 0#32⟩ :: s.replies }) ∧
      (∀ (addr size : Nat) (v : Word), s.inputs = .write addr size v :: rest →
        inAperture s.cfg addr = true → step s = .next { s with inputs := rest }))

/-- R52 and R29: a normal write to a read-only register or a reserved offset has no effect, and no ACC_ERR;
a reserved offset reads 0 in every state. -/
def Obligations.ReadOnlyAndReservedOffsetsIgnoreWrites : Prop :=
  (∀ (s : State) (off : Nat) (v : Word) (rest : List Event), s.resetIn = false → off % 4 = 0 →
    off ∈ [0x000, 0x004, 0x014, 0x018] ∨ (0x020 ≤ off ∧ off < 0x1000) ∨
      (0x5000 ≤ off ∧ off < 0x8000) →
    s.inputs = hostWr s.cfg off v :: rest →
    step s = .next { s with inputs := rest }) ∧
  (∀ (s : State) (off : Nat), (0x020 ≤ off ∧ off < 0x1000) ∨ (0x5000 ≤ off ∧ off < 0x8000) →
    readWord s off = 0#32)

/-- R43, R134, R135: every completion, faulting or not, raises IRQ exactly when IE = 1; clearing DONE or
accepting a command lowers it. -/
def Obligations.IrqFollowsCompletionAndEnable : Prop :=
  (∀ (i : Instr) (s t : State), exec i s = .next t → irq t = s.ie) ∧
  (∀ (s : State) (v : Word), v.getLsbD 1 = true → irq (clearStatus s v) = false) ∧
  (∀ (s : State) (w : Word), s.busy = false → s.fault = false → irq (issue s w) = false) ∧
  (∀ (s : State) (v : Word), v.getLsbD 1 = false → irq (writeCtrl s v) = (v.getLsbD 0 && s.done))

/-- R64, R53, R56: no host access but a soft reset changes the in-flight command or any bignum register. -/
def Obligations.HostCannotTouchCommandInFlight : Prop :=
  ∀ (s t : State) (e : Event) (rest : List Event) (addr : Nat), s.busy = true → s.resetIn = false →
    s.inputs = e :: rest → e.addr? = some addr → step s = .next t →
    (t.regs = s.regs ∧ t.cmd = s.cmd ∧ t.busy = true) ∨
    ∃ v : Word, e = hostWr s.cfg 0x008 v ∧ v.getLsbD 1 = true ∧
      t = { State.resetFor s.cfg with inputs := rest, replies := s.replies, draws := s.draws }

/-- R39: a host access writes no result flag, except that a soft reset clears them. -/
def Obligations.HostAccessesWriteNoResultFlag : Prop :=
  ∀ (s t : State) (e : Event) (rest : List Event) (addr : Nat), s.inputs = e :: rest →
    e.addr? = some addr → step s = .next t →
    (t.z = s.z ∧ t.n = s.n ∧ t.lt = s.lt ∧ t.eq = s.eq ∧ t.gt = s.gt) ∨
    (t.z = false ∧ t.n = false ∧ t.lt = false ∧ t.eq = false ∧ t.gt = false ∧
      ∃ v : Word, e = hostWr s.cfg 0x008 v ∧ v.getLsbD 1 = true)
end

