-- ==== Sys2Proof/Laws/State.lean ====
section
/-! SUPPORT. One lemma per field per update of State, each true by unfolding, so that no later proof unfolds a
record update. -/

namespace Sys2Proof.Machine

/-! ## writeReg -/

@[simp] theorem writeReg_cfg (s : State) (i : RegIdx) (v : Int) : (writeReg s i v).cfg = s.cfg := rfl

@[simp] theorem writeReg_regs (s : State) (i : RegIdx) (v : Int) : (writeReg s i v).regs = s.regs.set i (regOf s.cfg v) := rfl

@[simp] theorem writeReg_ie (s : State) (i : RegIdx) (v : Int) : (writeReg s i v).ie = s.ie := rfl

@[simp] theorem writeReg_busy (s : State) (i : RegIdx) (v : Int) : (writeReg s i v).busy = s.busy := rfl

@[simp] theorem writeReg_done (s : State) (i : RegIdx) (v : Int) : (writeReg s i v).done = s.done := rfl

@[simp] theorem writeReg_fault (s : State) (i : RegIdx) (v : Int) : (writeReg s i v).fault = s.fault := rfl

@[simp] theorem writeReg_cmdOvr (s : State) (i : RegIdx) (v : Int) : (writeReg s i v).cmdOvr = s.cmdOvr := rfl

@[simp] theorem writeReg_accErr (s : State) (i : RegIdx) (v : Int) : (writeReg s i v).accErr = s.accErr := rfl

@[simp] theorem writeReg_z (s : State) (i : RegIdx) (v : Int) : (writeReg s i v).z = s.z := rfl

@[simp] theorem writeReg_n (s : State) (i : RegIdx) (v : Int) : (writeReg s i v).n = s.n := rfl

@[simp] theorem writeReg_lt (s : State) (i : RegIdx) (v : Int) : (writeReg s i v).lt = s.lt := rfl

@[simp] theorem writeReg_eq (s : State) (i : RegIdx) (v : Int) : (writeReg s i v).eq = s.eq := rfl

@[simp] theorem writeReg_gt (s : State) (i : RegIdx) (v : Int) : (writeReg s i v).gt = s.gt := rfl

@[simp] theorem writeReg_cmd (s : State) (i : RegIdx) (v : Int) : (writeReg s i v).cmd = s.cmd := rfl

@[simp] theorem writeReg_cause (s : State) (i : RegIdx) (v : Int) : (writeReg s i v).cause = s.cause := rfl

@[simp] theorem writeReg_faultCmd (s : State) (i : RegIdx) (v : Int) : (writeReg s i v).faultCmd = s.faultCmd := rfl

@[simp] theorem writeReg_resetIn (s : State) (i : RegIdx) (v : Int) : (writeReg s i v).resetIn = s.resetIn := rfl

@[simp] theorem writeReg_inputs (s : State) (i : RegIdx) (v : Int) : (writeReg s i v).inputs = s.inputs := rfl

@[simp] theorem writeReg_replies (s : State) (i : RegIdx) (v : Int) : (writeReg s i v).replies = s.replies := rfl

@[simp] theorem writeReg_draws (s : State) (i : RegIdx) (v : Int) : (writeReg s i v).draws = s.draws := rfl

/-! ## setFlags_result -/

@[simp] theorem setFlags_result_cfg (s : State) (a b : Bool) : (setFlags s (.result a b)).cfg = s.cfg := rfl

@[simp] theorem setFlags_result_regs (s : State) (a b : Bool) : (setFlags s (.result a b)).regs = s.regs := rfl

@[simp] theorem setFlags_result_ie (s : State) (a b : Bool) : (setFlags s (.result a b)).ie = s.ie := rfl

@[simp] theorem setFlags_result_busy (s : State) (a b : Bool) : (setFlags s (.result a b)).busy = s.busy := rfl

@[simp] theorem setFlags_result_done (s : State) (a b : Bool) : (setFlags s (.result a b)).done = s.done := rfl

@[simp] theorem setFlags_result_fault (s : State) (a b : Bool) : (setFlags s (.result a b)).fault = s.fault := rfl

@[simp] theorem setFlags_result_cmdOvr (s : State) (a b : Bool) : (setFlags s (.result a b)).cmdOvr = s.cmdOvr := rfl

@[simp] theorem setFlags_result_accErr (s : State) (a b : Bool) : (setFlags s (.result a b)).accErr = s.accErr := rfl

@[simp] theorem setFlags_result_z (s : State) (a b : Bool) : (setFlags s (.result a b)).z = a := rfl

@[simp] theorem setFlags_result_n (s : State) (a b : Bool) : (setFlags s (.result a b)).n = b := rfl

@[simp] theorem setFlags_result_lt (s : State) (a b : Bool) : (setFlags s (.result a b)).lt = s.lt := rfl

@[simp] theorem setFlags_result_eq (s : State) (a b : Bool) : (setFlags s (.result a b)).eq = s.eq := rfl

@[simp] theorem setFlags_result_gt (s : State) (a b : Bool) : (setFlags s (.result a b)).gt = s.gt := rfl

@[simp] theorem setFlags_result_cmd (s : State) (a b : Bool) : (setFlags s (.result a b)).cmd = s.cmd := rfl

@[simp] theorem setFlags_result_cause (s : State) (a b : Bool) : (setFlags s (.result a b)).cause = s.cause := rfl

@[simp] theorem setFlags_result_faultCmd (s : State) (a b : Bool) : (setFlags s (.result a b)).faultCmd = s.faultCmd := rfl

@[simp] theorem setFlags_result_resetIn (s : State) (a b : Bool) : (setFlags s (.result a b)).resetIn = s.resetIn := rfl

@[simp] theorem setFlags_result_inputs (s : State) (a b : Bool) : (setFlags s (.result a b)).inputs = s.inputs := rfl

@[simp] theorem setFlags_result_replies (s : State) (a b : Bool) : (setFlags s (.result a b)).replies = s.replies := rfl

@[simp] theorem setFlags_result_draws (s : State) (a b : Bool) : (setFlags s (.result a b)).draws = s.draws := rfl

/-! ## setFlags_order -/

@[simp] theorem setFlags_order_cfg (s : State) (a b c : Bool) : (setFlags s (.order a b c)).cfg = s.cfg := rfl

@[simp] theorem setFlags_order_regs (s : State) (a b c : Bool) : (setFlags s (.order a b c)).regs = s.regs := rfl

@[simp] theorem setFlags_order_ie (s : State) (a b c : Bool) : (setFlags s (.order a b c)).ie = s.ie := rfl

@[simp] theorem setFlags_order_busy (s : State) (a b c : Bool) : (setFlags s (.order a b c)).busy = s.busy := rfl

@[simp] theorem setFlags_order_done (s : State) (a b c : Bool) : (setFlags s (.order a b c)).done = s.done := rfl

@[simp] theorem setFlags_order_fault (s : State) (a b c : Bool) : (setFlags s (.order a b c)).fault = s.fault := rfl

@[simp] theorem setFlags_order_cmdOvr (s : State) (a b c : Bool) : (setFlags s (.order a b c)).cmdOvr = s.cmdOvr := rfl

@[simp] theorem setFlags_order_accErr (s : State) (a b c : Bool) : (setFlags s (.order a b c)).accErr = s.accErr := rfl

@[simp] theorem setFlags_order_z (s : State) (a b c : Bool) : (setFlags s (.order a b c)).z = s.z := rfl

@[simp] theorem setFlags_order_n (s : State) (a b c : Bool) : (setFlags s (.order a b c)).n = s.n := rfl

@[simp] theorem setFlags_order_lt (s : State) (a b c : Bool) : (setFlags s (.order a b c)).lt = a := rfl

@[simp] theorem setFlags_order_eq (s : State) (a b c : Bool) : (setFlags s (.order a b c)).eq = b := rfl

@[simp] theorem setFlags_order_gt (s : State) (a b c : Bool) : (setFlags s (.order a b c)).gt = c := rfl

@[simp] theorem setFlags_order_cmd (s : State) (a b c : Bool) : (setFlags s (.order a b c)).cmd = s.cmd := rfl

@[simp] theorem setFlags_order_cause (s : State) (a b c : Bool) : (setFlags s (.order a b c)).cause = s.cause := rfl

@[simp] theorem setFlags_order_faultCmd (s : State) (a b c : Bool) : (setFlags s (.order a b c)).faultCmd = s.faultCmd := rfl

@[simp] theorem setFlags_order_resetIn (s : State) (a b c : Bool) : (setFlags s (.order a b c)).resetIn = s.resetIn := rfl

@[simp] theorem setFlags_order_inputs (s : State) (a b c : Bool) : (setFlags s (.order a b c)).inputs = s.inputs := rfl

@[simp] theorem setFlags_order_replies (s : State) (a b c : Bool) : (setFlags s (.order a b c)).replies = s.replies := rfl

@[simp] theorem setFlags_order_draws (s : State) (a b c : Bool) : (setFlags s (.order a b c)).draws = s.draws := rfl

/-! ## endCommand -/

@[simp] theorem endCommand_cfg (s : State) : (endCommand s).cfg = s.cfg := rfl

@[simp] theorem endCommand_regs (s : State) : (endCommand s).regs = s.regs := rfl

@[simp] theorem endCommand_ie (s : State) : (endCommand s).ie = s.ie := rfl

@[simp] theorem endCommand_busy (s : State) : (endCommand s).busy = false := rfl

@[simp] theorem endCommand_done (s : State) : (endCommand s).done = true := rfl

@[simp] theorem endCommand_fault (s : State) : (endCommand s).fault = s.fault := rfl

@[simp] theorem endCommand_cmdOvr (s : State) : (endCommand s).cmdOvr = s.cmdOvr := rfl

@[simp] theorem endCommand_accErr (s : State) : (endCommand s).accErr = s.accErr := rfl

@[simp] theorem endCommand_z (s : State) : (endCommand s).z = s.z := rfl

@[simp] theorem endCommand_n (s : State) : (endCommand s).n = s.n := rfl

@[simp] theorem endCommand_lt (s : State) : (endCommand s).lt = s.lt := rfl

@[simp] theorem endCommand_eq (s : State) : (endCommand s).eq = s.eq := rfl

@[simp] theorem endCommand_gt (s : State) : (endCommand s).gt = s.gt := rfl

@[simp] theorem endCommand_cmd (s : State) : (endCommand s).cmd = s.cmd := rfl

@[simp] theorem endCommand_cause (s : State) : (endCommand s).cause = s.cause := rfl

@[simp] theorem endCommand_faultCmd (s : State) : (endCommand s).faultCmd = s.faultCmd := rfl

@[simp] theorem endCommand_resetIn (s : State) : (endCommand s).resetIn = s.resetIn := rfl

@[simp] theorem endCommand_inputs (s : State) : (endCommand s).inputs = s.inputs := rfl

@[simp] theorem endCommand_replies (s : State) : (endCommand s).replies = s.replies := rfl

@[simp] theorem endCommand_draws (s : State) : (endCommand s).draws = s.draws := rfl

/-! ## faultEntry -/

@[simp] theorem faultEntry_cfg (s : State) (c : Cause) : (faultEntry s c).cfg = s.cfg := rfl

@[simp] theorem faultEntry_regs (s : State) (c : Cause) : (faultEntry s c).regs = s.regs := rfl

@[simp] theorem faultEntry_ie (s : State) (c : Cause) : (faultEntry s c).ie = s.ie := rfl

@[simp] theorem faultEntry_busy (s : State) (c : Cause) : (faultEntry s c).busy = false := rfl

@[simp] theorem faultEntry_done (s : State) (c : Cause) : (faultEntry s c).done = true := rfl

@[simp] theorem faultEntry_fault (s : State) (c : Cause) : (faultEntry s c).fault = true := rfl

@[simp] theorem faultEntry_cmdOvr (s : State) (c : Cause) : (faultEntry s c).cmdOvr = s.cmdOvr := rfl

@[simp] theorem faultEntry_accErr (s : State) (c : Cause) : (faultEntry s c).accErr = s.accErr := rfl

@[simp] theorem faultEntry_z (s : State) (c : Cause) : (faultEntry s c).z = s.z := rfl

@[simp] theorem faultEntry_n (s : State) (c : Cause) : (faultEntry s c).n = s.n := rfl

@[simp] theorem faultEntry_lt (s : State) (c : Cause) : (faultEntry s c).lt = s.lt := rfl

@[simp] theorem faultEntry_eq (s : State) (c : Cause) : (faultEntry s c).eq = s.eq := rfl

@[simp] theorem faultEntry_gt (s : State) (c : Cause) : (faultEntry s c).gt = s.gt := rfl

@[simp] theorem faultEntry_cmd (s : State) (c : Cause) : (faultEntry s c).cmd = s.cmd := rfl

@[simp] theorem faultEntry_cause (s : State) (c : Cause) : (faultEntry s c).cause = c := rfl

@[simp] theorem faultEntry_faultCmd (s : State) (c : Cause) : (faultEntry s c).faultCmd = s.cmd := rfl

@[simp] theorem faultEntry_resetIn (s : State) (c : Cause) : (faultEntry s c).resetIn = s.resetIn := rfl

@[simp] theorem faultEntry_inputs (s : State) (c : Cause) : (faultEntry s c).inputs = s.inputs := rfl

@[simp] theorem faultEntry_replies (s : State) (c : Cause) : (faultEntry s c).replies = s.replies := rfl

@[simp] theorem faultEntry_draws (s : State) (c : Cause) : (faultEntry s c).draws = s.draws := rfl

/-! ## accessError -/

@[simp] theorem accessError_cfg (s : State) : (accessError s).cfg = s.cfg := rfl

@[simp] theorem accessError_regs (s : State) : (accessError s).regs = s.regs := rfl

@[simp] theorem accessError_ie (s : State) : (accessError s).ie = s.ie := rfl

@[simp] theorem accessError_busy (s : State) : (accessError s).busy = s.busy := rfl

@[simp] theorem accessError_done (s : State) : (accessError s).done = s.done := rfl

@[simp] theorem accessError_fault (s : State) : (accessError s).fault = s.fault := rfl

@[simp] theorem accessError_cmdOvr (s : State) : (accessError s).cmdOvr = s.cmdOvr := rfl

@[simp] theorem accessError_accErr (s : State) : (accessError s).accErr = true := rfl

@[simp] theorem accessError_z (s : State) : (accessError s).z = s.z := rfl

@[simp] theorem accessError_n (s : State) : (accessError s).n = s.n := rfl

@[simp] theorem accessError_lt (s : State) : (accessError s).lt = s.lt := rfl

@[simp] theorem accessError_eq (s : State) : (accessError s).eq = s.eq := rfl

@[simp] theorem accessError_gt (s : State) : (accessError s).gt = s.gt := rfl

@[simp] theorem accessError_cmd (s : State) : (accessError s).cmd = s.cmd := rfl

@[simp] theorem accessError_cause (s : State) : (accessError s).cause = s.cause := rfl

@[simp] theorem accessError_faultCmd (s : State) : (accessError s).faultCmd = s.faultCmd := rfl

@[simp] theorem accessError_resetIn (s : State) : (accessError s).resetIn = s.resetIn := rfl

@[simp] theorem accessError_inputs (s : State) : (accessError s).inputs = s.inputs := rfl

@[simp] theorem accessError_replies (s : State) : (accessError s).replies = s.replies := rfl

@[simp] theorem accessError_draws (s : State) : (accessError s).draws = s.draws := rfl

/-! ## reply -/

@[simp] theorem reply_cfg (s : State) (a k : Nat) (d : Word) : (reply s a k d).cfg = s.cfg := rfl

@[simp] theorem reply_regs (s : State) (a k : Nat) (d : Word) : (reply s a k d).regs = s.regs := rfl

@[simp] theorem reply_ie (s : State) (a k : Nat) (d : Word) : (reply s a k d).ie = s.ie := rfl

@[simp] theorem reply_busy (s : State) (a k : Nat) (d : Word) : (reply s a k d).busy = s.busy := rfl

@[simp] theorem reply_done (s : State) (a k : Nat) (d : Word) : (reply s a k d).done = s.done := rfl

@[simp] theorem reply_fault (s : State) (a k : Nat) (d : Word) : (reply s a k d).fault = s.fault := rfl

@[simp] theorem reply_cmdOvr (s : State) (a k : Nat) (d : Word) : (reply s a k d).cmdOvr = s.cmdOvr := rfl

@[simp] theorem reply_accErr (s : State) (a k : Nat) (d : Word) : (reply s a k d).accErr = s.accErr := rfl

@[simp] theorem reply_z (s : State) (a k : Nat) (d : Word) : (reply s a k d).z = s.z := rfl

@[simp] theorem reply_n (s : State) (a k : Nat) (d : Word) : (reply s a k d).n = s.n := rfl

@[simp] theorem reply_lt (s : State) (a k : Nat) (d : Word) : (reply s a k d).lt = s.lt := rfl

@[simp] theorem reply_eq (s : State) (a k : Nat) (d : Word) : (reply s a k d).eq = s.eq := rfl

@[simp] theorem reply_gt (s : State) (a k : Nat) (d : Word) : (reply s a k d).gt = s.gt := rfl

@[simp] theorem reply_cmd (s : State) (a k : Nat) (d : Word) : (reply s a k d).cmd = s.cmd := rfl

@[simp] theorem reply_cause (s : State) (a k : Nat) (d : Word) : (reply s a k d).cause = s.cause := rfl

@[simp] theorem reply_faultCmd (s : State) (a k : Nat) (d : Word) : (reply s a k d).faultCmd = s.faultCmd := rfl

@[simp] theorem reply_resetIn (s : State) (a k : Nat) (d : Word) : (reply s a k d).resetIn = s.resetIn := rfl

@[simp] theorem reply_inputs (s : State) (a k : Nat) (d : Word) : (reply s a k d).inputs = s.inputs := rfl

@[simp] theorem reply_replies (s : State) (a k : Nat) (d : Word) : (reply s a k d).replies = ⟨a, k, d⟩ :: s.replies := rfl

@[simp] theorem reply_draws (s : State) (a k : Nat) (d : Word) : (reply s a k d).draws = s.draws := rfl

/-! ## clearStatus -/

@[simp] theorem clearStatus_cfg (s : State) (v : Word) : (clearStatus s v).cfg = s.cfg := rfl

@[simp] theorem clearStatus_regs (s : State) (v : Word) : (clearStatus s v).regs = s.regs := rfl

@[simp] theorem clearStatus_ie (s : State) (v : Word) : (clearStatus s v).ie = s.ie := rfl

@[simp] theorem clearStatus_busy (s : State) (v : Word) : (clearStatus s v).busy = s.busy := rfl

@[simp] theorem clearStatus_done (s : State) (v : Word) : (clearStatus s v).done = (s.done && !v.getLsbD 1) := rfl

@[simp] theorem clearStatus_fault (s : State) (v : Word) : (clearStatus s v).fault = (s.fault && !v.getLsbD 2) := rfl

@[simp] theorem clearStatus_cmdOvr (s : State) (v : Word) : (clearStatus s v).cmdOvr = (s.cmdOvr && !v.getLsbD 3) := rfl

@[simp] theorem clearStatus_accErr (s : State) (v : Word) : (clearStatus s v).accErr = (s.accErr && !v.getLsbD 4) := rfl

@[simp] theorem clearStatus_z (s : State) (v : Word) : (clearStatus s v).z = s.z := rfl

@[simp] theorem clearStatus_n (s : State) (v : Word) : (clearStatus s v).n = s.n := rfl

@[simp] theorem clearStatus_lt (s : State) (v : Word) : (clearStatus s v).lt = s.lt := rfl

@[simp] theorem clearStatus_eq (s : State) (v : Word) : (clearStatus s v).eq = s.eq := rfl

@[simp] theorem clearStatus_gt (s : State) (v : Word) : (clearStatus s v).gt = s.gt := rfl

@[simp] theorem clearStatus_cmd (s : State) (v : Word) : (clearStatus s v).cmd = s.cmd := rfl

@[simp] theorem clearStatus_cause (s : State) (v : Word) : (clearStatus s v).cause = s.cause := rfl

@[simp] theorem clearStatus_faultCmd (s : State) (v : Word) : (clearStatus s v).faultCmd = s.faultCmd := rfl

@[simp] theorem clearStatus_resetIn (s : State) (v : Word) : (clearStatus s v).resetIn = s.resetIn := rfl

@[simp] theorem clearStatus_inputs (s : State) (v : Word) : (clearStatus s v).inputs = s.inputs := rfl

@[simp] theorem clearStatus_replies (s : State) (v : Word) : (clearStatus s v).replies = s.replies := rfl

@[simp] theorem clearStatus_draws (s : State) (v : Word) : (clearStatus s v).draws = s.draws := rfl

/-! ## resetState -/

@[simp] theorem resetState_cfg (s : State) : (resetState s).cfg = s.cfg := rfl

@[simp] theorem resetState_regs (s : State) : (resetState s).regs = Vector.replicate 16 (zeroReg s.cfg) := rfl

@[simp] theorem resetState_ie (s : State) : (resetState s).ie = false := rfl

@[simp] theorem resetState_busy (s : State) : (resetState s).busy = false := rfl

@[simp] theorem resetState_done (s : State) : (resetState s).done = false := rfl

@[simp] theorem resetState_fault (s : State) : (resetState s).fault = false := rfl

@[simp] theorem resetState_cmdOvr (s : State) : (resetState s).cmdOvr = false := rfl

@[simp] theorem resetState_accErr (s : State) : (resetState s).accErr = false := rfl

@[simp] theorem resetState_z (s : State) : (resetState s).z = false := rfl

@[simp] theorem resetState_n (s : State) : (resetState s).n = false := rfl

@[simp] theorem resetState_lt (s : State) : (resetState s).lt = false := rfl

@[simp] theorem resetState_eq (s : State) : (resetState s).eq = false := rfl

@[simp] theorem resetState_gt (s : State) : (resetState s).gt = false := rfl

@[simp] theorem resetState_cmd (s : State) : (resetState s).cmd = 0#32 := rfl

@[simp] theorem resetState_cause (s : State) : (resetState s).cause = .none := rfl

@[simp] theorem resetState_faultCmd (s : State) : (resetState s).faultCmd = 0#32 := rfl

@[simp] theorem resetState_resetIn (s : State) : (resetState s).resetIn = s.resetIn := rfl

@[simp] theorem resetState_inputs (s : State) : (resetState s).inputs = s.inputs := rfl

@[simp] theorem resetState_replies (s : State) : (resetState s).replies = s.replies := rfl

@[simp] theorem resetState_draws (s : State) : (resetState s).draws = s.draws := rfl

/-! ## writeSigns -/

@[simp] theorem writeSigns_cfg (s : State) (v : Word) : (writeSigns s v).cfg = s.cfg := rfl

@[simp] theorem writeSigns_regs (s : State) (v : Word) : (writeSigns s v).regs = Vector.ofFn fun i : Fin 16 => { s.regs[i] with sign := v.getLsbD i.val } := rfl

@[simp] theorem writeSigns_ie (s : State) (v : Word) : (writeSigns s v).ie = s.ie := rfl

@[simp] theorem writeSigns_busy (s : State) (v : Word) : (writeSigns s v).busy = s.busy := rfl

@[simp] theorem writeSigns_done (s : State) (v : Word) : (writeSigns s v).done = s.done := rfl

@[simp] theorem writeSigns_fault (s : State) (v : Word) : (writeSigns s v).fault = s.fault := rfl

@[simp] theorem writeSigns_cmdOvr (s : State) (v : Word) : (writeSigns s v).cmdOvr = s.cmdOvr := rfl

@[simp] theorem writeSigns_accErr (s : State) (v : Word) : (writeSigns s v).accErr = s.accErr := rfl

@[simp] theorem writeSigns_z (s : State) (v : Word) : (writeSigns s v).z = s.z := rfl

@[simp] theorem writeSigns_n (s : State) (v : Word) : (writeSigns s v).n = s.n := rfl

@[simp] theorem writeSigns_lt (s : State) (v : Word) : (writeSigns s v).lt = s.lt := rfl

@[simp] theorem writeSigns_eq (s : State) (v : Word) : (writeSigns s v).eq = s.eq := rfl

@[simp] theorem writeSigns_gt (s : State) (v : Word) : (writeSigns s v).gt = s.gt := rfl

@[simp] theorem writeSigns_cmd (s : State) (v : Word) : (writeSigns s v).cmd = s.cmd := rfl

@[simp] theorem writeSigns_cause (s : State) (v : Word) : (writeSigns s v).cause = s.cause := rfl

@[simp] theorem writeSigns_faultCmd (s : State) (v : Word) : (writeSigns s v).faultCmd = s.faultCmd := rfl

@[simp] theorem writeSigns_resetIn (s : State) (v : Word) : (writeSigns s v).resetIn = s.resetIn := rfl

@[simp] theorem writeSigns_inputs (s : State) (v : Word) : (writeSigns s v).inputs = s.inputs := rfl

@[simp] theorem writeSigns_replies (s : State) (v : Word) : (writeSigns s v).replies = s.replies := rfl

@[simp] theorem writeSigns_draws (s : State) (v : Word) : (writeSigns s v).draws = s.draws := rfl

/-! ## placeCommand -/

@[simp] theorem placeCommand_cfg (s : State) (w : Word) : (placeCommand s w).cfg = s.cfg := rfl

@[simp] theorem placeCommand_regs (s : State) (w : Word) : (placeCommand s w).regs = s.regs := rfl

@[simp] theorem placeCommand_ie (s : State) (w : Word) : (placeCommand s w).ie = s.ie := rfl

@[simp] theorem placeCommand_busy (s : State) (w : Word) : (placeCommand s w).busy = true := rfl

@[simp] theorem placeCommand_done (s : State) (w : Word) : (placeCommand s w).done = false := rfl

@[simp] theorem placeCommand_fault (s : State) (w : Word) : (placeCommand s w).fault = false := rfl

@[simp] theorem placeCommand_cmdOvr (s : State) (w : Word) : (placeCommand s w).cmdOvr = s.cmdOvr := rfl

@[simp] theorem placeCommand_accErr (s : State) (w : Word) : (placeCommand s w).accErr = s.accErr := rfl

@[simp] theorem placeCommand_z (s : State) (w : Word) : (placeCommand s w).z = s.z := rfl

@[simp] theorem placeCommand_n (s : State) (w : Word) : (placeCommand s w).n = s.n := rfl

@[simp] theorem placeCommand_lt (s : State) (w : Word) : (placeCommand s w).lt = s.lt := rfl

@[simp] theorem placeCommand_eq (s : State) (w : Word) : (placeCommand s w).eq = s.eq := rfl

@[simp] theorem placeCommand_gt (s : State) (w : Word) : (placeCommand s w).gt = s.gt := rfl

@[simp] theorem placeCommand_cmd (s : State) (w : Word) : (placeCommand s w).cmd = w := rfl

@[simp] theorem placeCommand_cause (s : State) (w : Word) : (placeCommand s w).cause = s.cause := rfl

@[simp] theorem placeCommand_faultCmd (s : State) (w : Word) : (placeCommand s w).faultCmd = s.faultCmd := rfl

@[simp] theorem placeCommand_resetIn (s : State) (w : Word) : (placeCommand s w).resetIn = false := rfl

@[simp] theorem placeCommand_inputs (s : State) (w : Word) : (placeCommand s w).inputs = .engine :: s.inputs := rfl

@[simp] theorem placeCommand_replies (s : State) (w : Word) : (placeCommand s w).replies = s.replies := rfl

@[simp] theorem placeCommand_draws (s : State) (w : Word) : (placeCommand s w).draws = s.draws := rfl

/-! ## resetFor -/

@[simp] theorem resetFor_cfg (c : Config) : (State.resetFor c).cfg = c := rfl

@[simp] theorem resetFor_regs (c : Config) : (State.resetFor c).regs = Vector.replicate 16 (zeroReg c) := rfl

@[simp] theorem resetFor_ie (c : Config) : (State.resetFor c).ie = false := rfl

@[simp] theorem resetFor_busy (c : Config) : (State.resetFor c).busy = false := rfl

@[simp] theorem resetFor_done (c : Config) : (State.resetFor c).done = false := rfl

@[simp] theorem resetFor_fault (c : Config) : (State.resetFor c).fault = false := rfl

@[simp] theorem resetFor_cmdOvr (c : Config) : (State.resetFor c).cmdOvr = false := rfl

@[simp] theorem resetFor_accErr (c : Config) : (State.resetFor c).accErr = false := rfl

@[simp] theorem resetFor_z (c : Config) : (State.resetFor c).z = false := rfl

@[simp] theorem resetFor_n (c : Config) : (State.resetFor c).n = false := rfl

@[simp] theorem resetFor_lt (c : Config) : (State.resetFor c).lt = false := rfl

@[simp] theorem resetFor_eq (c : Config) : (State.resetFor c).eq = false := rfl

@[simp] theorem resetFor_gt (c : Config) : (State.resetFor c).gt = false := rfl

@[simp] theorem resetFor_cmd (c : Config) : (State.resetFor c).cmd = 0#32 := rfl

@[simp] theorem resetFor_cause (c : Config) : (State.resetFor c).cause = .none := rfl

@[simp] theorem resetFor_faultCmd (c : Config) : (State.resetFor c).faultCmd = 0#32 := rfl

@[simp] theorem resetFor_resetIn (c : Config) : (State.resetFor c).resetIn = false := rfl

@[simp] theorem resetFor_inputs (c : Config) : (State.resetFor c).inputs = [] := rfl

@[simp] theorem resetFor_replies (c : Config) : (State.resetFor c).replies = [] := rfl

@[simp] theorem resetFor_draws (c : Config) : (State.resetFor c).draws = 0 := rfl

end Sys2Proof.Machine
end

