-- ==== Sys2Proof/Laws/Ops.lean ====
section
/-! SUPPORT. One lemma per shared operation over registers and results: what it gives, so that later proofs
cite it and unfold nothing. -/

namespace Sys2Proof.Machine

/-! ## Limb vectors -/

@[simp] theorem limbsOf_length (m v : Nat) : (limbsOf m v).length = m := by
  induction m generalizing v with
  | zero => rfl
  | succ m ih => simp [limbsOf, ih]

/-- m limbs of v hold v modulo 2^(32m). -/
theorem limbsValue_limbsOf (m v : Nat) : limbsValue (limbsOf m v) = v % 2 ^ (32 * m) := by
  induction m generalizing v with
  | zero => simp [limbsOf, limbsValue, Nat.mod_one]
  | succ m ih =>
    rw [limbsOf, limbsValue, ih, show 32 * (m + 1) = 32 + 32 * m by omega, pow_add, Nat.mod_mul]
    simp

theorem limbsValue_lt (ls : List Word) : limbsValue ls < 2 ^ (32 * ls.length) := by
  induction ls with
  | nil => simp [limbsValue]
  | cons l ls ih =>
    have hl := l.isLt
    have hp : 2 ^ (32 * (l :: ls).length) = 2 ^ 32 * 2 ^ (32 * ls.length) := by
      rw [← pow_add, List.length_cons]; congr 1; omega
    rw [hp, limbsValue]
    generalize 2 ^ (32 * ls.length) = X at *
    norm_num at *; omega

theorem limbsValue_replicate_zero (n : Nat) : limbsValue (List.replicate n 0#32) = 0 := by
  induction n with
  | zero => rfl
  | succ n ih => simp [List.replicate_succ, limbsValue, ih]

/-! ## Registers -/

theorem capacity_pos (c : Config) : 0 < capacity c := Nat.pos_of_ne_zero (by unfold capacity; positivity)

/-- R6: a device holds at least one limb. -/
theorem two_pow_32_le_capacity {c : Config} (h : c.wf = true) : 2 ^ 32 ≤ capacity c := by
  simp only [Config.wf, Bool.and_eq_true, decide_eq_true_eq] at h
  exact Nat.pow_le_pow_right (by norm_num) (by omega)

theorem regMag_lt_capacity (c : Config) (r : BigReg) : regMag c r < capacity c :=
  lt_of_lt_of_le (limbsValue_lt _) (Nat.pow_le_pow_right (by norm_num) (by simp))

/-- The operand a command reads always fits (R25). -/
theorem natAbs_readReg_lt (s : State) (i : RegIdx) : (readReg s i).natAbs < capacity s.cfg := by
  have h := regMag_lt_capacity s.cfg s.regs[i]
  unfold readReg regValue; split <;> simp_all

@[simp] theorem magLimbs_length (c : Config) (v : Int) : (magLimbs c v).length = c.maxLimbs := limbsOf_length _ _

/-- The limbs a chain works on hold the operand's magnitude. -/
theorem limbsValue_magLimbs {c : Config} {v : Int} (h : v.natAbs < capacity c) :
    limbsValue (magLimbs c v) = v.natAbs := by
  rw [magLimbs, limbsValue_limbsOf]; exact Nat.mod_eq_of_lt h

theorem regMag_regOf {c : Config} {v : Int} (h : v.natAbs < capacity c) : regMag c (regOf c v) = v.natAbs := by
  rw [regMag, regOf, List.take_of_length_le (by simp), limbsValue_limbsOf]; exact Nat.mod_eq_of_lt h

/-- What a register write does to the register file. -/
theorem writeReg_getElem (s : State) (i k : RegIdx) (v : Int) :
    (writeReg s i v).regs[k] = if k = i then regOf s.cfg v else s.regs[k] := by
  simp only [writeReg, Fin.getElem_fin, Vector.getElem_set, Fin.ext_iff, eq_comm]

@[simp] theorem natAbs_withSign (b : Bool) (m : Nat) : (withSign b m).natAbs = m := by
  unfold withSign; split <;> simp

theorem withSign_of_sign (a : Int) (m : Nat) :
    withSign (decide (a < 0)) m = if a < 0 then -(m : Int) else m := by
  simp only [withSign, decide_eq_true_eq]; split <;> split <;> omega

/-! ## Results -/

/-- How a command ends: a value written, a value raised as a cause, a fault. -/
theorem finish_ok (s : State) (rd : RegIdx) (v : Int) :
    finish s (resultOf rd (.ok v)) = .next (resultState s rd v) := rfl

theorem finish_writesResult (s : State) (rd : RegIdx) (v : Int) :
    finish s (writesResult rd v) = .next (resultState s rd v) := rfl

theorem finish_error (s : State) (rd : RegIdx) (c : Cause) :
    finish s (resultOf rd (.error c)) = .next (faultState s c) := rfl

theorem finish_fault (s : State) (c : Cause) : finish s (.fault c) = .next (faultState s c) := rfl

/-- A checked result is the value itself and fits, or CAPACITY and does not. -/
theorem capacityChecked_cases (c : Config) (v : Int) :
    (capacityChecked c v = .ok v ∧ v.natAbs < capacity c) ∨
    (capacityChecked c v = .error .capacity ∧ capacity c ≤ v.natAbs) := by
  unfold capacityChecked
  by_cases h : v.natAbs < capacity c
  · exact .inl ⟨if_pos h, h⟩
  · exact .inr ⟨if_neg h, Nat.le_of_not_lt h⟩

/-- The guard on large counts changes no result of a left shift that fits. -/
theorem shlMag_cases (c : Config) (m k : Nat) :
    (shlMag c m k = .ok (m * 2 ^ k) ∧ m * 2 ^ k < capacity c) ∨
    (shlMag c m k = .error .capacity ∧ capacity c ≤ m * 2 ^ k) := by
  unfold shlMag
  by_cases h0 : m = 0
  · subst h0; simp [capacity_pos]
  rw [if_neg h0]
  by_cases h1 : 32 * c.maxLimbs ≤ k
  · rw [if_pos h1]
    have h2 : capacity c ≤ 2 ^ k := Nat.pow_le_pow_right (by norm_num) h1
    have h3 : 1 * 2 ^ k ≤ m * 2 ^ k := Nat.mul_le_mul_right _ (by omega)
    exact .inr ⟨rfl, by omega⟩
  rw [if_neg h1]
  by_cases h2 : m * 2 ^ k < capacity c
  · exact .inl ⟨if_pos h2, h2⟩
  · exact .inr ⟨if_neg h2, Nat.le_of_not_lt h2⟩

/-- The guard on large counts changes no right shift of a magnitude in range. -/
theorem shrMag_eq {c : Config} {m : Nat} (k : Nat) (h : m < capacity c) : shrMag c m k = m / 2 ^ k := by
  rw [shrMag]; split
  · rw [Nat.div_eq_of_lt]; exact lt_of_lt_of_le h (Nat.pow_le_pow_right (by norm_num) (by assumption))
  · rfl

theorem lt_two_pow_bitlen (a : Nat) : a < 2 ^ bitlen a := by
  rw [bitlen]; split
  · simp [*]
  · exact Nat.lt_log2_self

end Sys2Proof.Machine
end

