-- ==== Sys2Proof/Laws/Exec.lean ====
section
/-! SUPPORT. What a command can do, said once: every arm of exec ends in one of four ways. -/

namespace Sys2Proof.Machine

/-- The ways a command's execution ends: one of its causes, its one destination written, DIVMOD's two
destinations written, or CMP's flags. -/
inductive Ends (i : Instr) : ExecResult → Prop
  | raises (c : Cause) (h : c ∈ causesOf i) : Ends i (.fault c)
  | writesOne (rd : RegIdx) (v : Int) (h : destsOf i = [rd]) : Ends i (writesResult rd v)
  | writesTwo (rd rs3 : RegIdx) (q r : Nat) (h : destsOf i = [rd, rs3]) (hne : rd ≠ rs3) :
      Ends i (.success [(rd, (q : Int)), (rs3, (r : Int))] (resultFlags (q : Int)))
  | compares (a b : Int) (h : destsOf i = []) : Ends i (.success [] (orderFlags a b))

/-- A command with one destination ends as its value does. -/
theorem Ends.of_value {i : Instr} {rd : RegIdx} (hd : destsOf i = [rd]) {x : Except Cause Int}
    (hx : ∀ c, x = .error c → c ∈ causesOf i) : Ends i (resultOf rd x) := by
  cases x with
  | ok v => exact .writesOne rd v hd
  | error c => exact .raises c (hx c rfl)

theorem signedAdd_error {c : Config} {a b : Int} {e : Cause} (h : signedAdd c a b = .error e) :
    e = .capacity := by
  unfold signedAdd at h; dsimp only at h
  split at h
  · split at h
    · exact (Except.error.inj h).symm
    · exact nomatch h
  · split at h <;> exact nomatch h

theorem unsignedAdd_error {c : Config} {a b : Int} {e : Cause} (h : unsignedAdd c a b = .error e) :
    e = .capacity := by
  unfold unsignedAdd at h; dsimp only at h
  split at h
  · exact (Except.error.inj h).symm
  · exact nomatch h

theorem unsignedSub_error {c : Config} {a b : Int} {e : Cause} (h : unsignedSub c a b = .error e) :
    e = .magnitudeOrder := by
  unfold unsignedSub at h
  split at h
  · exact (Except.error.inj h).symm
  · exact nomatch h

theorem capacityChecked_error {c : Config} {v : Int} {e : Cause} (h : capacityChecked c v = .error e) :
    e = .capacity := by
  unfold capacityChecked at h
  split at h
  · exact nomatch h
  · exact (Except.error.inj h).symm

theorem shlValue_error {c : Config} {a k : Int} {e : Cause} (h : shlValue c a k = .error e) :
    e = .operationSource ∨ e = .capacity := by
  unfold shlValue at h
  split at h
  · exact .inl (Except.error.inj h).symm
  · rcases shlMag_cases c a.natAbs k.natAbs with ⟨hm, -⟩ | ⟨hm, -⟩ <;> rw [hm] at h
    · exact nomatch h
    · exact .inr (Except.error.inj h).symm

theorem shrValue_error {c : Config} {a k : Int} {e : Cause} (h : shrValue c a k = .error e) :
    e = .operationSource := by
  unfold shrValue at h
  split at h
  · exact (Except.error.inj h).symm
  · exact nomatch h

theorem bitValue_error {c : Config} {a k : Int} {e : Cause} (h : bitValue c a k = .error e) :
    e = .operationSource := by
  unfold bitValue at h
  split at h
  · exact (Except.error.inj h).symm
  · exact nomatch h

theorem montmulValue_error {c : Config} {a b n : Int} {e : Cause} (h : montmulValue c a b n = .error e) :
    e = .operationSource ∨ e = .zeroDivide ∨ e = .modulus ∨ e = .capacity := by
  unfold montmulValue at h
  split at h; · exact .inl (Except.error.inj h).symm
  split at h; · exact .inl (Except.error.inj h).symm
  split at h; · exact .inl (Except.error.inj h).symm
  split at h; · exact .inr (.inl (Except.error.inj h).symm)
  split at h; · exact .inr (.inr (.inl (Except.error.inj h).symm))
  exact .inr (.inr (.inr (capacityChecked_error h)))

theorem modexpValue_error {a x n : Int} {e : Cause} (h : modexpValue a x n = .error e) :
    e = .operationSource ∨ e = .zeroDivide := by
  unfold modexpValue at h
  split at h; · exact .inl (Except.error.inj h).symm
  split at h; · exact .inl (Except.error.inj h).symm
  split at h; · exact .inl (Except.error.inj h).symm
  split at h; · exact .inr (Except.error.inj h).symm
  exact nomatch h

theorem divmodResult_ends (rd rs1 rs2 rs3 : RegIdx) (a b : Int) :
    Ends (.divmod rd rs1 rs2 rs3) (divmodResult rd rs3 a b) := by
  unfold divmodResult
  split; · exact .raises _ (by simp [causesOf])
  rename_i hne
  split; · exact .raises _ (by simp [causesOf])
  split; · exact .raises _ (by simp [causesOf])
  split; · exact .raises _ (by simp [causesOf])
  exact .writesTwo rd rs3 _ _ rfl hne

/-- Inversion of exec: it finishes with a result that is one of the command's ends. -/
theorem exec_ends (i : Instr) (s : State) : ∃ r, exec i s = finish s r ∧ Ends i r := by
  cases i with
  | add rd a b => exact ⟨_, rfl, .of_value rfl fun _ h => by simp [causesOf, signedAdd_error h]⟩
  | sub rd a b => exact ⟨_, rfl, .of_value rfl fun _ h => by simp [causesOf, signedAdd_error h]⟩
  | addu rd a b => exact ⟨_, rfl, .of_value rfl fun _ h => by simp [causesOf, unsignedAdd_error h]⟩
  | subu rd a b => exact ⟨_, rfl, .of_value rfl fun _ h => by simp [causesOf, unsignedSub_error h]⟩
  | mul rd a b => exact ⟨_, rfl, .of_value rfl fun _ h => by simp [causesOf, capacityChecked_error h]⟩
  | divmod rd a b r => exact ⟨_, rfl, divmodResult_ends rd a b r _ _⟩
  | shl rd a k => exact ⟨_, rfl, .of_value rfl fun _ h => by simpa [causesOf] using shlValue_error h⟩
  | shr rd a k => exact ⟨_, rfl, .of_value rfl fun _ h => by simp [causesOf, shrValue_error h]⟩
  | cmp a b => exact ⟨_, rfl, .compares _ _ rfl⟩
  | bitlen rd a => exact ⟨_, rfl, .writesOne rd _ rfl⟩
  | bit rd a k => exact ⟨_, rfl, .of_value rfl fun _ h => by simp [causesOf, bitValue_error h]⟩
  | mov rd a => exact ⟨_, rfl, .writesOne rd _ rfl⟩
  | neg rd a => exact ⟨_, rfl, .writesOne rd _ rfl⟩
  | inc rd => exact ⟨_, rfl, .of_value rfl fun _ h => by simp [causesOf, signedAdd_error h]⟩
  | dec rd => exact ⟨_, rfl, .of_value rfl fun _ h => by simp [causesOf, signedAdd_error h]⟩
  | ldw rd imm => exact ⟨_, rfl, .writesOne rd _ rfl⟩
  | montmul rd a b n => exact ⟨_, rfl, .of_value rfl fun _ h => by simpa [causesOf] using montmulValue_error h⟩
  | modexp rd a e n => exact ⟨_, rfl, .of_value rfl fun _ h => by simpa [causesOf] using modexpValue_error h⟩

/-- No command raises the cause NONE. -/
theorem none_not_mem_causesOf (i : Instr) : Cause.none ∉ causesOf i := by cases i <;> simp [causesOf]

end Sys2Proof.Machine
end

