-- ==== Sys2Proof/Laws/PerInstr.lean ====
section
/-! SUPPORT. Facts stated for every command as syntax, one lemma per constructor. Family EncodingMatchesRow: a
command's word passes its row's mask and match test (R69, R71). -/

namespace Sys2Proof.Laws.EncodingMatchesRow

/-- The command's word is its opcode's match word under its format's mask, its opcode field is that opcode,
and the opcode map gives that opcode that format (R69, R71). -/
def Statement (i : Instr) : Prop :=
  encode i &&& formatMask (formatOf i) = matchWord (opcodeOf i) ∧ opField (encode i) = opcodeOf i ∧
    (opcodeRow (opcodeOf i)).map Prod.fst = some (formatOf i)

/-- A register field holds no bit a mask fixes outside it, and none of the opcode. -/
def Clear (mask : Word) (lo : Nat) : Prop :=
  ∀ r : RegIdx, placeReg r lo &&& mask = 0#32 ∧ (placeReg r lo).extractLsb' 0 6 = 0#6

theorem zero_clear (mask : Word) (lo : Nat) :
    placeReg 0 lo &&& mask = 0#32 ∧ (placeReg 0 lo).extractLsb' 0 6 = 0#6 := by simp [placeReg]

/-- The mask test and the opcode of a register-format word, from those of its fields. -/
theorem encodeRegs_matches {op : Nat} {mask : Word} {rd rs1 rs2 rs3 : RegIdx}
    (hop : matchWord op &&& mask = matchWord op ∧ (matchWord op).extractLsb' 0 6 = BitVec.ofNat 6 op ∧ op < 64)
    (hd : placeReg rd 8 &&& mask = 0#32 ∧ (placeReg rd 8).extractLsb' 0 6 = 0#6)
    (h1 : placeReg rs1 12 &&& mask = 0#32 ∧ (placeReg rs1 12).extractLsb' 0 6 = 0#6)
    (h2 : placeReg rs2 16 &&& mask = 0#32 ∧ (placeReg rs2 16).extractLsb' 0 6 = 0#6)
    (h3 : placeReg rs3 20 &&& mask = 0#32 ∧ (placeReg rs3 20).extractLsb' 0 6 = 0#6) :
    encodeRegs op rd rs1 rs2 rs3 &&& mask = matchWord op ∧ opField (encodeRegs op rd rs1 rs2 rs3) = op := by
  constructor
  · simp only [encodeRegs, BitVec.and_or_distrib_right, hop.1, hd.1, h1.1, h2.1, h3.1, BitVec.or_zero]
  · simp only [encodeRegs, opField, BitVec.extractLsb'_or, hop.2.1, hd.2, h1.2, h2.2, h3.2, BitVec.or_zero]
    simpa using hop.2.2

/-- The same for the immediate format. -/
theorem encodeImm_matches (rd : RegIdx) (imm16 : BitVec 16) :
    encodeImm 0x10 rd imm16 &&& 0x0000F0FF#32 = matchWord 0x10 ∧ opField (encodeImm 0x10 rd imm16) = 0x10 := by
  have hd : placeReg rd 8 &&& 0x0000F0FF#32 = 0#32 ∧ (placeReg rd 8).extractLsb' 0 6 = 0#6 := by
    revert rd; decide
  have hi : (imm16.setWidth 32 <<< 16) &&& 0x0000F0FF#32 = 0#32 ∧
      (imm16.setWidth 32 <<< 16).extractLsb' 0 6 = 0#6 := by
    constructor
    · apply BitVec.eq_of_getLsbD_eq; intro k hk; interval_cases k <;> simp
    · apply BitVec.eq_of_getLsbD_eq; intro k hk; interval_cases k <;> simp
  constructor
  · simp only [encodeImm, BitVec.and_or_distrib_right, hd.1, hi.1, BitVec.or_zero]; rfl
  · simp only [encodeImm, opField, BitVec.extractLsb'_or, hd.2, hi.2, BitVec.or_zero]; rfl

theorem fields_clear_r4 : Clear 0xFF0000FF#32 8 ∧ Clear 0xFF0000FF#32 12 ∧ Clear 0xFF0000FF#32 16 ∧
    Clear 0xFF0000FF#32 20 := by unfold Clear; decide

theorem fields_clear_r3 : Clear 0xFFF000FF#32 8 ∧ Clear 0xFFF000FF#32 12 ∧ Clear 0xFFF000FF#32 16 := by
  unfold Clear; decide

theorem fields_clear_r2 : Clear 0xFFFF00FF#32 8 ∧ Clear 0xFFFF00FF#32 12 := by unfold Clear; decide

theorem fields_clear_rc : Clear 0xFFF00FFF#32 12 ∧ Clear 0xFFF00FFF#32 16 := by unfold Clear; decide

theorem fields_clear_r1 : Clear 0xFFFFF0FF#32 8 := by unfold Clear; decide

theorem add (rd rs1 rs2 : RegIdx) : Statement (.add rd rs1 rs2) :=
  let h := encodeRegs_matches (by decide)
    (fields_clear_r3.1 rd) (fields_clear_r3.2.1 rs1) (fields_clear_r3.2.2 rs2) (zero_clear _ _)
  ⟨h.1, h.2, rfl⟩

theorem sub (rd rs1 rs2 : RegIdx) : Statement (.sub rd rs1 rs2) :=
  let h := encodeRegs_matches (by decide)
    (fields_clear_r3.1 rd) (fields_clear_r3.2.1 rs1) (fields_clear_r3.2.2 rs2) (zero_clear _ _)
  ⟨h.1, h.2, rfl⟩

theorem addu (rd rs1 rs2 : RegIdx) : Statement (.addu rd rs1 rs2) :=
  let h := encodeRegs_matches (by decide)
    (fields_clear_r3.1 rd) (fields_clear_r3.2.1 rs1) (fields_clear_r3.2.2 rs2) (zero_clear _ _)
  ⟨h.1, h.2, rfl⟩

theorem subu (rd rs1 rs2 : RegIdx) : Statement (.subu rd rs1 rs2) :=
  let h := encodeRegs_matches (by decide)
    (fields_clear_r3.1 rd) (fields_clear_r3.2.1 rs1) (fields_clear_r3.2.2 rs2) (zero_clear _ _)
  ⟨h.1, h.2, rfl⟩

theorem mul (rd rs1 rs2 : RegIdx) : Statement (.mul rd rs1 rs2) :=
  let h := encodeRegs_matches (by decide)
    (fields_clear_r3.1 rd) (fields_clear_r3.2.1 rs1) (fields_clear_r3.2.2 rs2) (zero_clear _ _)
  ⟨h.1, h.2, rfl⟩

theorem divmod (rd rs1 rs2 rs3 : RegIdx) : Statement (.divmod rd rs1 rs2 rs3) :=
  let h := encodeRegs_matches (by decide)
    (fields_clear_r4.1 rd) (fields_clear_r4.2.1 rs1) (fields_clear_r4.2.2.1 rs2) (fields_clear_r4.2.2.2 rs3)
  ⟨h.1, h.2, rfl⟩

theorem shl (rd rs1 rs2 : RegIdx) : Statement (.shl rd rs1 rs2) :=
  let h := encodeRegs_matches (by decide)
    (fields_clear_r3.1 rd) (fields_clear_r3.2.1 rs1) (fields_clear_r3.2.2 rs2) (zero_clear _ _)
  ⟨h.1, h.2, rfl⟩

theorem shr (rd rs1 rs2 : RegIdx) : Statement (.shr rd rs1 rs2) :=
  let h := encodeRegs_matches (by decide)
    (fields_clear_r3.1 rd) (fields_clear_r3.2.1 rs1) (fields_clear_r3.2.2 rs2) (zero_clear _ _)
  ⟨h.1, h.2, rfl⟩

theorem cmp (rs1 rs2 : RegIdx) : Statement (.cmp rs1 rs2) :=
  let h := encodeRegs_matches (by decide)
    (zero_clear _ _) (fields_clear_rc.1 rs1) (fields_clear_rc.2 rs2) (zero_clear _ _)
  ⟨h.1, h.2, rfl⟩

theorem bitlen (rd rs1 : RegIdx) : Statement (.bitlen rd rs1) :=
  let h := encodeRegs_matches (by decide)
    (fields_clear_r2.1 rd) (fields_clear_r2.2 rs1) (zero_clear _ _) (zero_clear _ _)
  ⟨h.1, h.2, rfl⟩

theorem bit (rd rs1 rs2 : RegIdx) : Statement (.bit rd rs1 rs2) :=
  let h := encodeRegs_matches (by decide)
    (fields_clear_r3.1 rd) (fields_clear_r3.2.1 rs1) (fields_clear_r3.2.2 rs2) (zero_clear _ _)
  ⟨h.1, h.2, rfl⟩

theorem mov (rd rs1 : RegIdx) : Statement (.mov rd rs1) :=
  let h := encodeRegs_matches (by decide)
    (fields_clear_r2.1 rd) (fields_clear_r2.2 rs1) (zero_clear _ _) (zero_clear _ _)
  ⟨h.1, h.2, rfl⟩

theorem neg (rd rs1 : RegIdx) : Statement (.neg rd rs1) :=
  let h := encodeRegs_matches (by decide)
    (fields_clear_r2.1 rd) (fields_clear_r2.2 rs1) (zero_clear _ _) (zero_clear _ _)
  ⟨h.1, h.2, rfl⟩

theorem inc (rd : RegIdx) : Statement (.inc rd) :=
  let h := encodeRegs_matches (by decide)
    (fields_clear_r1 rd) (zero_clear _ _) (zero_clear _ _) (zero_clear _ _)
  ⟨h.1, h.2, rfl⟩

theorem dec (rd : RegIdx) : Statement (.dec rd) :=
  let h := encodeRegs_matches (by decide)
    (fields_clear_r1 rd) (zero_clear _ _) (zero_clear _ _) (zero_clear _ _)
  ⟨h.1, h.2, rfl⟩

theorem ldw (rd : RegIdx) (imm16 : BitVec 16) : Statement (.ldw rd imm16) :=
  ⟨(encodeImm_matches rd imm16).1, (encodeImm_matches rd imm16).2, rfl⟩

theorem montmul (rd rs1 rs2 rs3 : RegIdx) : Statement (.montmul rd rs1 rs2 rs3) :=
  let h := encodeRegs_matches (by decide)
    (fields_clear_r4.1 rd) (fields_clear_r4.2.1 rs1) (fields_clear_r4.2.2.1 rs2) (fields_clear_r4.2.2.2 rs3)
  ⟨h.1, h.2, rfl⟩

theorem modexp (rd rs1 rs2 rs3 : RegIdx) : Statement (.modexp rd rs1 rs2 rs3) :=
  let h := encodeRegs_matches (by decide)
    (fields_clear_r4.1 rd) (fields_clear_r4.2.1 rs1) (fields_clear_r4.2.2.1 rs2) (fields_clear_r4.2.2.2 rs3)
  ⟨h.1, h.2, rfl⟩

end Sys2Proof.Laws.EncodingMatchesRow
end

