-- ==== Sys2Proof/Laws/Step.lean ====
section
/-! SUPPORT. What a step, a host access and the engine's turn can do, said once each. -/

namespace Sys2Proof.Machine

theorem step_cons {s : State} {e : Event} {rest : List Event} (h : s.inputs = e :: rest) :
    step s = takeEvent { s with inputs := rest } e := by simp [step, nextStep, h]

theorem step_nil {s : State} (h : s.inputs = []) : step s = engineTurn s := by simp [step, nextStep, h]

/-- An engine turn that is not enabled changes nothing. -/
theorem engineTurn_idle {s : State} (h : ¬(s.busy = true ∧ s.resetIn = false)) : engineTurn s = .next s := if_neg h

theorem engineTurn_busy {s : State} (hb : s.busy = true) (hr : s.resetIn = false) :
    engineTurn s = runCommand s := if_pos ⟨hb, hr⟩

/-- The completion step always answers a next state: a recorded fault, or the end of the decoded command. -/
theorem runCommand_cases (s : State) :
    runCommand s = .next (faultState s .illegalCmd) ∨
    ∃ i r, decode s.cmd = .ok i ∧ Ends i r ∧ runCommand s = .next (complete s r) := by
  unfold runCommand
  cases h : decode s.cmd with
  | error e => exact .inl rfl
  | ok i =>
    obtain ⟨r, hr, he⟩ := exec_ends i s
    exact .inr ⟨i, r, rfl, he, hr⟩

/-- An offset below 0x8000 is in the aperture. -/
theorem inAperture_of_lt (c : Config) {off : Nat} (h : off < 0x8000) :
    inAperture c (c.baseAddr + off) = true := by simp [inAperture]; omega

/-- A host read inside the aperture, the engine out of reset, is HostRead and its reply. -/
theorem step_read {s : State} {off size : Nat} {rest : List Event}
    (hi : s.inputs = .read (s.cfg.baseAddr + off) size :: rest) (hr : s.resetIn = false) (h : off < 0x8000) :
    step s = .next (reply (hostRead { s with inputs := rest } off size).2 (s.cfg.baseAddr + off) size
      (hostRead { s with inputs := rest } off size).1) := by
  rw [step_cons hi]; simp [takeEvent, memRead, inAperture_of_lt s.cfg h, hr]

/-- A host write inside the aperture, the engine out of reset, is HostWrite. -/
theorem step_write {s : State} {off size : Nat} {v : Word} {rest : List Event}
    (hi : s.inputs = .write (s.cfg.baseAddr + off) size v :: rest) (hr : s.resetIn = false)
    (h : off < 0x8000) : step s = .next (hostWrite { s with inputs := rest } off size v) := by
  rw [step_cons hi]; simp [takeEvent, memWrite, inAperture_of_lt s.cfg h, hr]

/-- A normal read the busy rule does not cover gives the register's value and leaves the state. -/
theorem hostRead_normal {s : State} {off : Nat} (ha : off % 4 = 0)
    (hb : isOperandOffset off = false ∨ s.busy = false) : hostRead s off 4 = (readWord s off, s) := by
  rcases hb with h | h <;> simp [hostRead, isNormal, ha, h]

/-- A normal write the busy rule does not cover is the write of its register. -/
theorem hostWrite_normal {s : State} {off : Nat} (v : Word) (ha : off % 4 = 0)
    (hb : isOperandOffset off = false ∨ s.busy = false) : hostWrite s off 4 v = writeWord s off v := by
  rcases hb with h | h <;> simp [hostWrite, isNormal, ha, h]

/-- The offsets of the busy rule, as R53 writes them for aligned accesses. -/
theorem isOperandOffset_iff {off : Nat} (ha : off % 4 = 0) :
    isOperandOffset off = true ↔ off = 0x01C ∨ (0x1000 ≤ off ∧ off ≤ 0x4FFC) := by
  simp only [isOperandOffset, decide_eq_true_eq]; omega

/-- A host read changes the replies, the draw count and ACC_ERR, and nothing else. -/
theorem memRead_frame {s t : State} {addr size : Nat} (h : memRead s addr size = .next t) :
    ∃ rs d b, t = { s with replies := rs, draws := d, accErr := b } := by
  unfold memRead at h
  split at h; · exact nomatch h
  split at h
  · exact ⟨_, _, _, (Host.Outcome.next.inj h).symm⟩
  · obtain rfl := Host.Outcome.next.inj h
    unfold hostRead
    split; · exact ⟨_, _, _, rfl⟩
    split; · exact ⟨_, _, _, rfl⟩
    exact ⟨_, _, _, rfl⟩

/-- A host write that answers a next state was in the aperture, and was nothing (in reset) or HostWrite. -/
theorem memWrite_cases {s t : State} {addr size : Nat} {v : Word} (h : memWrite s addr size v = .next t) :
    inAperture s.cfg addr = true ∧
    ((s.resetIn = true ∧ t = s) ∨ (s.resetIn = false ∧ t = hostWrite s (addr - s.cfg.baseAddr) size v)) := by
  unfold memWrite at h
  split at h; · exact nomatch h
  rename_i ha
  refine ⟨by simpa using ha, ?_⟩
  split at h
  · exact .inl ⟨by assumption, (Host.Outcome.next.inj h).symm⟩
  · exact .inr ⟨by simp_all, (Host.Outcome.next.inj h).symm⟩

/-- What a normal write does, by the register its offset names (R54). -/
theorem writeWord_cases (s : State) (off : Nat) (v : Word) :
    (off = 0x008 ∧ writeWord s off v = writeCtrl s v) ∨
    (off = 0x00C ∧ writeWord s off v = clearStatus s v) ∨
    (off = 0x010 ∧ writeWord s off v = issue s v) ∨
    (off = 0x01C ∧ writeWord s off v = writeSigns s v) ∨
    (0x1000 ≤ off ∧ off < 0x5000 ∧ writeWord s off v = writeLimb s (windowReg off) (windowLimb off) v) ∨
    writeWord s off v = s := by
  unfold writeWord
  split; · exact .inl ⟨by assumption, rfl⟩
  split; · exact .inr (.inl ⟨by assumption, rfl⟩)
  split; · exact .inr (.inr (.inl ⟨by assumption, rfl⟩))
  split; · exact .inr (.inr (.inr (.inl ⟨by assumption, rfl⟩)))
  split
  · rename_i h; exact .inr (.inr (.inr (.inr (.inl ⟨h.1, h.2, rfl⟩))))
  · exact .inr (.inr (.inr (.inr (.inr rfl))))

/-- The window offset of limb j of b_i decodes to b_i and j (R47). -/
theorem limbOffset_decodes (i : RegIdx) {j : Nat} (h : j ≤ 255) :
    windowReg (limbOffset i j) = i ∧ windowLimb (limbOffset i j) = j ∧ 0x1000 ≤ limbOffset i j ∧
      limbOffset i j < 0x5000 ∧ limbOffset i j % 4 = 0 := by
  have hi := i.isLt
  refine ⟨?_, ?_, ?_, ?_, ?_⟩
  · apply Fin.ext; simp [windowReg, limbOffset]; omega
  · simp [windowLimb, limbOffset]; omega
  · simp [limbOffset]; omega
  · simp [limbOffset]; omega
  · simp [limbOffset]; omega

/-- Bit k of the number a list of bits makes is the list's k-th. -/
theorem testBit_bitsValue (bs : List Bool) (k : Nat) : (bitsValue bs).testBit k = bs.getD k false := by
  induction bs generalizing k with
  | nil => simp [bitsValue]
  | cons b bs ih =>
    cases k with
    | zero => cases b <;> simp [bitsValue]
    | succ k =>
      have hhalf : (b.toNat + 2 * bitsValue bs) / 2 = bitsValue bs := by cases b <;> (simp; try omega)
      rw [bitsValue, Nat.testBit_succ, hhalf, ih]; simp

/-- A write to SIGNS touches no limb. -/
@[simp] theorem writeSigns_limbs (s : State) (v : Word) (i : RegIdx) :
    (writeSigns s v).regs[i].limbs = s.regs[i].limbs := by
  unfold writeSigns; simp only [Fin.getElem_fin, Vector.getElem_ofFn]

end Sys2Proof.Machine
end

