-- ==== Sys2Proof/Machine/Assembler.lean ====
section
/-! DEFINITION. The assembler syntax (R75): how a command is written, and reading one line of it, the
pseudo-instructions `CLR`, `ONE` and `SQR` included (R76). Lines are lists of characters. -/

namespace Sys2Proof.Machine

/-- `b0` to `b15`. -/
def regText (r : RegIdx) : List Char := 'b' :: Nat.toDigits 10 r.val

/-- Operands with commas between them. -/
def operandsText : List (List Char) → List Char
  | [] => []
  | [x] => x
  | x :: y :: rest => x ++ [',', ' '] ++ operandsText (y :: rest)

/-- A mnemonic, a space and its operands. -/
def lineText (mnemonic : List Char) (operands : List (List Char)) : List Char :=
  mnemonic ++ [' '] ++ operandsText operands

/-- A command as R75 writes it: destinations first, then sources, in field order; DIVMOD's quotient and
remainder registers first. -/
def instrText : Instr → List Char
  | .add rd a b => lineText ['A', 'D', 'D'] [regText rd, regText a, regText b]
  | .sub rd a b => lineText ['S', 'U', 'B'] [regText rd, regText a, regText b]
  | .addu rd a b => lineText ['A', 'D', 'D', 'U'] [regText rd, regText a, regText b]
  | .subu rd a b => lineText ['S', 'U', 'B', 'U'] [regText rd, regText a, regText b]
  | .mul rd a b => lineText ['M', 'U', 'L'] [regText rd, regText a, regText b]
  | .divmod q a b r =>
    lineText ['D', 'I', 'V', 'M', 'O', 'D'] [regText q, regText r, regText a, regText b]
  | .shl rd a k => lineText ['S', 'H', 'L'] [regText rd, regText a, regText k]
  | .shr rd a k => lineText ['S', 'H', 'R'] [regText rd, regText a, regText k]
  | .cmp a b => lineText ['C', 'M', 'P'] [regText a, regText b]
  | .bitlen rd a => lineText ['B', 'I', 'T', 'L', 'E', 'N'] [regText rd, regText a]
  | .bit rd a k => lineText ['B', 'I', 'T'] [regText rd, regText a, regText k]
  | .mov rd a => lineText ['M', 'O', 'V'] [regText rd, regText a]
  | .neg rd a => lineText ['N', 'E', 'G'] [regText rd, regText a]
  | .inc rd => lineText ['I', 'N', 'C'] [regText rd]
  | .dec rd => lineText ['D', 'E', 'C'] [regText rd]
  | .ldw rd imm => lineText ['L', 'D', 'W'] [regText rd, '#' :: Nat.toDigits 10 imm.toNat]
  | .montmul rd a b n =>
    lineText ['M', 'O', 'N', 'T', 'M', 'U', 'L'] [regText rd, regText a, regText b, regText n]
  | .modexp rd a e n =>
    lineText ['M', 'O', 'D', 'E', 'X', 'P'] [regText rd, regText a, regText e, regText n]

/-- Blanks that separate words. -/
def isBlank (c : Char) : Bool := c == ' ' || c == '\t'

/-- A text without blanks at either end. -/
def trimBlanks (cs : List Char) : List Char :=
  ((cs.dropWhile isBlank).reverse.dropWhile isBlank).reverse

/-- The pieces of a text between its commas. -/
def splitCommas : List Char → List (List Char)
  | [] => [[]]
  | c :: cs =>
    if c = ',' then [] :: splitCommas cs
    else match splitCommas cs with
      | [] => [[c]]
      | p :: ps => (c :: p) :: ps

/-- A register operand. -/
def parseReg (cs : List Char) : Option RegIdx := (List.finRange 16).find? fun r => regText r = cs

/-- A digit's value in bases up to 16. -/
def digitOf (c : Char) : Option Nat :=
  let n := c.toNat
  if 48 ≤ n ∧ n ≤ 57 then some (n - 48)
  else if 97 ≤ n ∧ n ≤ 102 then some (n - 87)
  else if 65 ≤ n ∧ n ≤ 70 then some (n - 55)
  else none

/-- The number a digit string writes in a base, after the digits already read. -/
def numberFrom (base : Nat) : List Char → Nat → Option Nat
  | [], acc => some acc
  | c :: cs, acc =>
    match digitOf c with
    | some d => if d < base then numberFrom base cs (base * acc + d) else none
    | none => none

/-- The value of an immediate operand: `#`, then decimal or `0x` hexadecimal (R75). -/
def immValue : List Char → Option Nat
  | '#' :: '0' :: 'x' :: c :: cs => numberFrom 16 (c :: cs) 0
  | '#' :: c :: cs => numberFrom 10 (c :: cs) 0
  | _ => none

/-- An immediate operand, 0 to 65535. -/
def parseImm (cs : List Char) : Option (BitVec 16) :=
  match immValue cs with
  | some v => if v < 65536 then some (BitVec.ofNat 16 v) else none
  | none => none

/-- The command a mnemonic makes of four registers, as they are written (R75). -/
def fourRegs (m : List Char) (d a b c : RegIdx) : Option Instr :=
  if m = ['D', 'I', 'V', 'M', 'O', 'D'] then some (.divmod d b c a)
  else if m = ['M', 'O', 'N', 'T', 'M', 'U', 'L'] then some (.montmul d a b c)
  else if m = ['M', 'O', 'D', 'E', 'X', 'P'] then some (.modexp d a b c)
  else none

/-- The command a mnemonic makes of three registers. `ABSU` is not read: R76's two-operand form does
not say which register holds its zero (`pseudoAbsu` takes it as an argument). -/
def threeRegs (m : List Char) (d a b : RegIdx) : Option Instr :=
  if m = ['A', 'D', 'D'] then some (.add d a b)
  else if m = ['S', 'U', 'B'] then some (.sub d a b)
  else if m = ['A', 'D', 'D', 'U'] then some (.addu d a b)
  else if m = ['S', 'U', 'B', 'U'] then some (.subu d a b)
  else if m = ['M', 'U', 'L'] then some (.mul d a b)
  else if m = ['S', 'H', 'L'] then some (.shl d a b)
  else if m = ['S', 'H', 'R'] then some (.shr d a b)
  else if m = ['B', 'I', 'T'] then some (.bit d a b)
  else none

/-- The command a mnemonic makes of two registers, `SQR` among them (R76). -/
def twoRegs (m : List Char) (d a : RegIdx) : Option Instr :=
  if m = ['C', 'M', 'P'] then some (.cmp d a)
  else if m = ['B', 'I', 'T', 'L', 'E', 'N'] then some (.bitlen d a)
  else if m = ['M', 'O', 'V'] then some (.mov d a)
  else if m = ['N', 'E', 'G'] then some (.neg d a)
  else if m = ['S', 'Q', 'R'] then some (pseudoSqr d a)
  else none

/-- The command a mnemonic makes of one register, `CLR` and `ONE` among them (R76). -/
def oneReg (m : List Char) (d : RegIdx) : Option Instr :=
  if m = ['I', 'N', 'C'] then some (.inc d)
  else if m = ['D', 'E', 'C'] then some (.dec d)
  else if m = ['C', 'L', 'R'] then some (pseudoClr d)
  else if m = ['O', 'N', 'E'] then some (pseudoOne d)
  else none

/-- The command a mnemonic makes of its operands. -/
def buildInstr (m : List Char) : List (List Char) → Option Instr
  | [p] => do oneReg m (← parseReg p)
  | [p, q] =>
    if m = ['L', 'D', 'W'] then do return .ldw (← parseReg p) (← parseImm q)
    else do twoRegs m (← parseReg p) (← parseReg q)
  | [p, q, r] => do threeRegs m (← parseReg p) (← parseReg q) (← parseReg r)
  | [p, q, r, t] => do fourRegs m (← parseReg p) (← parseReg q) (← parseReg r) (← parseReg t)
  | _ => none

/-- One line of a program (R75): no command if it is blank or a comment, one command otherwise; `none`
where the line is no assembly. Mnemonics are read without regard to case. -/
def assembleLine (line : List Char) : Option (List Instr) :=
  let code := trimBlanks (line.takeWhile (· != ';'))
  if code = [] then some []
  else
    let m := (code.takeWhile fun c => !isBlank c).map Char.toUpper
    let operands := (splitCommas (code.dropWhile fun c => !isBlank c)).map trimBlanks
    match buildInstr m operands with
    | some i => some [i]
    | none => none

end Sys2Proof.Machine
end

