-- ==== Sys2Proof/Tests/Slice0.lean ====
section
/-! SUPPORT. Tests of one step each, expected values from the spec's vectors (95_test_vectors.md, named in
each group's comment), and for every obligation with hypotheses a state and operands that meet them. -/

namespace Sys2Proof.Tests

open Sys2Proof.Machine

/-! ## Helpers -/

/-- A device of m limbs at base 0 whose registers hold the values listed. -/
def dev (m : Nat) (ws : List (RegIdx × Int)) : State := applyWrites (State.resetFor ⟨m, 0⟩) ws

/-- The state after the one step that runs the word. -/
def runWord (w : Word) (s : State) : Option State :=
  match step (s.withFetchWord 32 w.toNat) with
  | .next t => some t
  | .fault _ => none
  | .refused _ => none

/-- A register's value and STATUS after the word has run. -/
def afterWord (w : Word) (s : State) (r : RegIdx) : Option (Int × Word) :=
  (runWord w s).map fun t => (readReg t r, statusWord t)

/-- CAUSE, FAULT_CMD and STATUS after the word has run. -/
def faultAfter (w : Word) (s : State) : Option (Cause × Word × Word) :=
  (runWord w s).map fun t => (t.cause, t.faultCmd, statusWord t)

/-- The state after one host event. -/
def afterEvent (s : State) (e : Event) : Option State :=
  match step { s with inputs := [e] } with
  | .next t => some t
  | .fault _ => none
  | .refused _ => none

/-- What one aligned read gives back, and STATUS after it. -/
def readBack (s : State) (off : Nat) : Option (List Word × Word) :=
  (afterEvent s (hostRd s.cfg off)).map fun t => (t.replies.map Reply.data, statusWord t)

/-- b1 a negative zero, as HI18 leaves it. -/
def negativeZero : State := writeSigns (dev 1 []) 0x2#32

/-- A device with MUL b3, b1, b2 in flight (HI7). -/
def mulInFlight : State := issue (dev 1 [(1, 6), (2, 7)]) 0x00021305#32

/-- A device whose last command took a CAPACITY fault (RS2, RS3). -/
def faulted : State := faultEntry (issue (dev 1 [(1, 5)]) 0x00021303#32) .capacity

/-- A device held in reset. -/
def heldInReset : State := { dev 1 [] with resetIn := true }

/-! ## WellFormed: the one ill-formed shape -/

theorem test_wf_divmod_one_destination : Instr.wf (.divmod 3 1 2 3) = false := by decide

theorem test_wf_divmod_two_destinations : Instr.wf (.divmod 3 1 2 4) = true := by decide

/-! ## Decoding: words written out field by field from R69's layouts (R79 gives the same words) -/

theorem test_decode_add : decode 0b00000000000000100001001100000001#32 = .ok (.add 3 1 2) := by decide

theorem test_decode_sub : decode 0b00000000000000100001001100000010#32 = .ok (.sub 3 1 2) := by decide

theorem test_decode_addu : decode 0b00000000000000100001001100000011#32 = .ok (.addu 3 1 2) := by decide

theorem test_decode_subu : decode 0b00000000000000100001001100000100#32 = .ok (.subu 3 1 2) := by decide

theorem test_decode_mul : decode 0b00000000000000100001001100000101#32 = .ok (.mul 3 1 2) := by decide

theorem test_decode_divmod : decode 0b00000000010000100001001100000110#32 = .ok (.divmod 3 1 2 4) := by decide

theorem test_decode_shl : decode 0b00000000000000100001001100000111#32 = .ok (.shl 3 1 2) := by decide

theorem test_decode_shr : decode 0b00000000000000100001001100001000#32 = .ok (.shr 3 1 2) := by decide

theorem test_decode_cmp : decode 0b00000000000000100001000000001001#32 = .ok (.cmp 1 2) := by decide

theorem test_decode_bitlen : decode 0b00000000000000000001001000001010#32 = .ok (.bitlen 2 1) := by decide

theorem test_decode_bit : decode 0b00000000000000100001001100001011#32 = .ok (.bit 3 1 2) := by decide

theorem test_decode_mov : decode 0b00000000000000000001001000001100#32 = .ok (.mov 2 1) := by decide

theorem test_decode_neg : decode 0b00000000000000000001000100001101#32 = .ok (.neg 1 1) := by decide

theorem test_decode_inc : decode 0b00000000000000000000010000001110#32 = .ok (.inc 4) := by decide

theorem test_decode_dec : decode 0b00000000000000000000010000001111#32 = .ok (.dec 4) := by decide

theorem test_decode_ldw : decode 0b11111111111111110000000100010000#32 = .ok (.ldw 1 0xFFFF#16) := by decide

theorem test_decode_montmul :
    decode 0b00000000001100100001010000010001#32 = .ok (.montmul 4 1 2 3) := by decide

theorem test_decode_modexp : decode 0b00000000001100100001010000010010#32 = .ok (.modexp 4 1 2 3) := by decide

/-- EN1, EN2, EN3: reserved opcodes. -/
theorem test_decode_reserved_opcodes :
    decode 0x00000000#32 = .error .reservedOpcode ∧ decode 0x00000013#32 = .error .reservedOpcode ∧
    decode 0x0000003F#32 = .error .reservedOpcode := by decide

/-- EN4, EN5: bits [7:6]. -/
theorem test_decode_reserved_bits :
    decode 0x00021341#32 = .error .reservedBits ∧ decode 0x000213C1#32 = .error .reservedBits := by decide

/-- EN6 to EN9, EN11 to EN17: a field the format does not use. -/
theorem test_decode_unused_fields :
    [0x00121301#32, 0x01021301#32, 0x00021109#32, 0x00120209#32, 0x00011510#32, 0xFFFF1110#32, 0x0000110E#32,
      0x0001040E#32, 0x8000010E#32, 0x10321411#32, 0x0001120A#32].all
      (fun w => decide (decode w = .error .unusedField)) = true := by decide

/-- EN10. -/
theorem test_decode_divmod_same_destination : decode 0x00321306#32 = .error .sameDestination := by decide

/-! ## The assembler (R75, R76) -/

theorem test_assemble_divmod :
    assembleLine "divmod b3, b4, b1, b2 ; quotient, remainder".toList = some [.divmod 3 1 2 4] := by decide

theorem test_assemble_ldw_hex : assembleLine "LDW b1, #0xFFFF".toList = some [.ldw 1 0xFFFF#16] := by decide

theorem test_assemble_sqr : assembleLine "SQR b2, b15".toList = some [.mul 2 15 15] := by decide

/-- R76: ABSU over b0, which holds 0. -/
theorem test_absu : afterWord (encode (pseudoAbsu 3 1 0)) (dev 2 [(1, -5)]) 3 = some (5, 0x2#32) := by decide

theorem test_assemble_rejects_wide_immediate : assembleLine "LDW b1, #65536".toList = none := by decide

theorem test_assembly_text_reads_back :
    assembleLine (instrText (.modexp 4 1 2 3)) = some [.modexp 4 1 2 3] := by decide

/-! ## Chains: CC1 to CC6 -/

theorem test_carry_crosses_limb : carryChain [0xFFFFFFFF#32, 0#32] [1#32, 0#32] false = ([0#32, 1#32], false) := by
  decide

theorem test_carry_out :
    carryChain [0x80000000#32, 0x80000000#32] [0x80000000#32, 0x80000000#32] false = ([0#32, 1#32], true) := by
  decide

theorem test_borrow_crosses_limb :
    borrowChain [0#32, 1#32] [1#32, 0#32] false = ([0xFFFFFFFF#32, 0#32], false) := by decide

theorem test_borrow_out :
    borrowChain [1#32, 0#32] [2#32, 0#32] false = ([0xFFFFFFFF#32, 0xFFFFFFFF#32], true) := by decide

theorem test_magcmp_high_limb_decides : magCmp [0#32, 1#32] [0xFFFFFFFF#32, 0#32] = .gt := by decide

/-! ## Commands, at most two each: AS, MU, DV, SH, CB, MV, MM and ME vectors -/

/-- AS8: the zero has sign 0. -/
theorem test_add_to_zero : afterWord 0x00021301#32 (dev 2 [(1, 5), (2, -5)]) 3 = some (0, 0x102#32) := by decide

/-- AS12c. -/
theorem test_add_capacity :
    faultAfter 0x00021301#32 (dev 1 [(1, -0xFFFFFFFF), (2, -1)]) = some (.capacity, 0x00021301#32, 0x6#32) := by
  decide

/-- AS9: the (-a) - (-b) case. -/
theorem test_sub_two_negatives : afterWord 0x00021302#32 (dev 2 [(1, -3), (2, -10)]) 3 = some (7, 0x2#32) := by
  decide

/-- AS10. -/
theorem test_sub_negative_result : afterWord 0x00021302#32 (dev 2 [(1, -10), (2, -3)]) 3 = some (-7, 0x202#32) := by
  decide

/-- AS3. -/
theorem test_addu_ignores_signs : afterWord 0x00021303#32 (dev 2 [(1, -5), (2, 3)]) 3 = some (8, 0x2#32) := by decide

/-- AS2. -/
theorem test_addu_carry_out_faults :
    faultAfter 0x00021303#32 (dev 2 [(1, 0xFFFFFFFFFFFFFFFF), (2, 1)]) =
      some (.capacity, 0x00021303#32, 0x6#32) := by decide

/-- AS4. -/
theorem test_subu_borrow : afterWord 0x00021304#32 (dev 2 [(1, 0x100000000), (2, 1)]) 3 = some (0xFFFFFFFF, 0x2#32) := by
  decide

/-- AS5. -/
theorem test_subu_order :
    faultAfter 0x00021304#32 (dev 2 [(1, 1), (2, 2)]) = some (.magnitudeOrder, 0x00021304#32, 0x6#32) := by decide

/-- AS13b: NEG of a host-written negative zero. -/
theorem test_neg_negative_zero : afterWord 0x0000120D#32 negativeZero 2 = some (0, 0x102#32) := by decide

/-- AS13a: in place. -/
theorem test_neg_in_place : afterWord 0x0000110D#32 (dev 2 [(1, 5)]) 1 = some (-5, 0x202#32) := by decide

/-- AS16: the low limb was 0. -/
theorem test_inc_negative_crosses_limb :
    afterWord 0x0000040E#32 (dev 2 [(4, -0x100000000)]) 4 = some (-0xFFFFFFFF, 0x202#32) := by decide

/-- AS18b. -/
theorem test_inc_capacity :
    faultAfter 0x0000040E#32 (dev 1 [(4, 0xFFFFFFFF)]) = some (.capacity, 0x0000040E#32, 0x6#32) := by decide

/-- AS17c. -/
theorem test_dec_negative_crosses_limb :
    afterWord 0x0000040F#32 (dev 2 [(4, -0xFFFFFFFF)]) 4 = some (-0x100000000, 0x202#32) := by decide

/-- AS18a. -/
theorem test_dec_capacity :
    faultAfter 0x0000040F#32 (dev 1 [(4, -0xFFFFFFFF)]) = some (.capacity, 0x0000040F#32, 0x6#32) := by decide

/-- MU1, the source's own scenario (S1). -/
theorem test_mul_source_scenario :
    afterWord 0x00021305#32 (dev 2 [(1, 0xFFFF), (2, 0xFFFFFFFF)]) 3 = some (0xFFFEFFFF0001, 0x2#32) := by decide

/-- MU2: no negative zero. -/
theorem test_mul_zero : afterWord 0x00021305#32 (dev 2 [(1, 0), (2, -5)]) 3 = some (0, 0x102#32) := by decide

/-- DV10: the destinations are the sources. -/
theorem test_divmod_overwrites_sources :
    (runWord 0x00221106#32 (dev 2 [(1, 100), (2, 7)])).map (fun t => (readReg t 1, readReg t 2)) =
      some (14, 2) := by decide

/-- DV4: OPERATION_SOURCE before ZERO_DIVIDE. -/
theorem test_divmod_priority :
    faultAfter 0x00421306#32 (dev 2 [(1, -7), (2, 0)]) = some (.operationSource, 0x00421306#32, 0x6#32) := by decide

/-- SH1. -/
theorem test_shl_crosses_limb :
    afterWord 0x00021307#32 (dev 2 [(1, 0x80000001), (2, 1)]) 3 = some (0x100000002, 0x2#32) := by decide

/-- SH5a. -/
theorem test_shl_capacity :
    faultAfter 0x00021307#32 (dev 2 [(1, 1), (2, 64)]) = some (.capacity, 0x00021307#32, 0x6#32) := by decide

/-- SH6: toward zero. -/
theorem test_shr_negative : afterWord 0x00021308#32 (dev 2 [(1, -5), (2, 1)]) 3 = some (-2, 0x202#32) := by decide

/-- SH8b: a bit crosses from limb 1. -/
theorem test_shr_crosses_limb :
    afterWord 0x00021308#32 (dev 2 [(1, 0x100000002), (2, 1)]) 3 = some (0x80000001, 0x2#32) := by decide

/-- CB1. -/
theorem test_cmp_two_negatives :
    (runWord 0x00021009#32 (dev 2 [(1, -0x100000000), (2, -1)])).map statusWord = some 0x402#32 := by decide

/-- CB3b: a negative zero is 0. -/
theorem test_cmp_negative_zero : (runWord 0x00021009#32 negativeZero).map statusWord = some 0x802#32 := by decide

/-- CB5d. -/
theorem test_bitlen_second_limb : afterWord 0x0000120A#32 (dev 2 [(1, 0x100000000)]) 2 = some (33, 0x2#32) := by decide

/-- CB5e. -/
theorem test_bitlen_negative : afterWord 0x0000120A#32 (dev 2 [(1, -8)]) 2 = some (4, 0x2#32) := by decide

/-- CB6c: the magnitude's bit. -/
theorem test_bit_negative : afterWord 0x0002130B#32 (dev 2 [(1, -5), (2, 0)]) 3 = some (1, 0x2#32) := by decide

/-- CB6e. -/
theorem test_bit_beyond_width :
    afterWord 0x0002130B#32 (dev 2 [(1, 0x100000000), (2, 10000)]) 3 = some (0, 0x102#32) := by decide

/-- MV2: normalised in place. -/
theorem test_mov_normalises :
    (runWord 0x0000110C#32 negativeZero).map (fun t => (t.regs[1].sign, readReg t 1)) = some (false, 0) := by decide

/-- MV1. -/
theorem test_mov_negative :
    afterWord 0x0000120C#32 (dev 2 [(1, -0x100000000)]) 2 = some (-0x100000000, 0x202#32) := by decide

/-- MV3: never sign-extended. -/
theorem test_ldw_zero_extends : afterWord 0xFFFF0110#32 (dev 2 []) 1 = some (65535, 0x2#32) := by decide

/-- MV4: every limb and the sign cleared. -/
theorem test_ldw_clears :
    (runWord 0x00000110#32 (dev 4 [(1, -2 ^ 100)])).map (fun t => t.regs[1]) = some (zeroReg ⟨4, 0⟩) := by decide

/-- MM2: u = n gives 0. -/
theorem test_montmul_u_equals_n :
    afterWord 0x00321411#32 (dev 1 [(1, 3), (2, 5), (3, 15)]) 4 = some (0, 0x102#32) := by decide

/-- MM9. -/
theorem test_montmul_capacity :
    faultAfter 0x00321411#32 (dev 1 [(1, 0xFFFFFFFF), (2, 0xFFFFFFFF), (3, 3)]) =
      some (.capacity, 0x00321411#32, 0x6#32) := by decide

/-- ME1. -/
theorem test_modexp_odd_modulus :
    afterWord 0x00321412#32 (dev 1 [(1, 4), (2, 13), (3, 497)]) 4 = some (445, 0x2#32) := by decide

/-- ME4b: 0^0 = 1. -/
theorem test_modexp_zero_to_zero :
    afterWord 0x00321412#32 (dev 1 [(1, 0), (2, 0), (3, 7)]) 4 = some (1, 0x2#32) := by decide

/-! ## Montgomery constants and reference algorithms: MC6, MP6, trace T1, MU7, DV8, SH1, CB5d -/

theorem test_montgomery_constants :
    (montR 497, montR 497 % 497, montRinv 497, montNprime 497) = (512, 15, 232, 239) := by decide

theorem test_montprod_unreduced_operands : montProd 100 200 13 = 1237 := by decide

theorem test_montgomery_exponentiation : montModExp 4 13 497 = 445 := by decide

theorem test_schoolbook_product :
    product [0xFFFFFFFF#32, 0xFFFFFFFF#32] [0xFFFFFFFF#32, 0xFFFFFFFF#32] =
      [1#32, 0#32, 0xFFFFFFFE#32, 0xFFFFFFFF#32] := by decide

theorem test_restoring_division : restoringDivide (2 ^ 64) (2 ^ 32 + 1) = (0xFFFFFFFF, 1) := by decide

theorem test_shl_limbs : shlLimbs [0x80000001#32, 0#32] 1 = [2#32, 1#32] := by decide

theorem test_limb_bitlen : limbBitlen [0#32, 1#32] = 33 := by decide

/-! ## Host port: HI, BY and RS vectors -/

/-- HI1, HI2: ID and CONFIG with M = 128, 1 and 256. -/
theorem test_read_id_and_config :
    readWord (dev 1 []) 0x000 = 0x42494743#32 ∧ configWord ⟨128, 0⟩ = 0x00801020#32 ∧
    configWord ⟨1, 0⟩ = 0x00011020#32 ∧ configWord ⟨256, 0⟩ = 0x01001020#32 := by decide

/-- R119's code numbers, as a host reads them from CAUSE. -/
theorem test_cause_codes :
    [Cause.none, .illegalCmd, .zeroDivide, .operationSource, .magnitudeOrder, .capacity, .modulus].map
      (fun c => readWord { dev 1 [] with cause := c } 0x014) = [0#32, 1#32, 2#32, 3#32, 4#32, 5#32, 6#32] := by decide

/-- R32: CTRL reads IE in bit 0. -/
theorem test_read_ctrl :
    readWord { dev 1 [] with ie := true } 0x008 = 1#32 ∧ readWord (dev 1 []) 0x008 = 0#32 := by decide

/-- R54: an operand load with BUSY = 0 reaches its limb. -/
theorem test_operand_load :
    (afterEvent (dev 2 []) (hostWr ⟨2, 0⟩ 0x1404 7#32)).map (fun t => (readReg t 1, statusWord t)) =
      some (0x700000000, 0#32) := by decide

/-- HI3: a misaligned read. -/
theorem test_misaligned_read :
    (afterEvent (dev 1 []) (.read 0x002 4)).map (fun t => (t.replies.map Reply.data, statusWord t)) =
      some ([0#32], 0x10#32) := by decide

/-- HI4: a one-byte read. -/
theorem test_narrow_read :
    (afterEvent (dev 1 []) (.read 0x000 1)).map (fun t => (t.replies.map Reply.data, statusWord t)) =
      some ([0#32], 0x10#32) := by decide

/-- HI5: a reserved offset. -/
theorem test_reserved_offset_reads_zero : readBack (dev 1 []) 0x7FFC = some ([0#32], 0#32) := by decide

/-- HI6: limb 2 of a two-limb device. -/
theorem test_limb_above_m_ignores_write : writeWord (dev 2 []) 0x1008 0x1234#32 = dev 2 [] := by decide

/-- HI7: the second issue is rejected. -/
theorem test_second_issue_rejected :
    (afterEvent mulInFlight (hostIssue ⟨1, 0⟩ (.add 3 1 2))).map (fun t => (statusWord t, t.cmd)) =
      some (0x9#32, 0x00021305#32) := by decide

/-- HI8: an operand write while busy. -/
theorem test_operand_write_while_busy :
    (afterEvent mulInFlight (hostWr ⟨1, 0⟩ (limbOffset 1 0) 7#32)).map (fun t => (statusWord t, readReg t 1)) =
      some (0x11#32, 6) := by decide

/-- HI9: an operand read while busy sets ACC_ERR and takes a draw. -/
theorem test_operand_read_while_busy :
    (afterEvent mulInFlight (hostRd ⟨1, 0⟩ (limbOffset 3 0))).map (fun t => (statusWord t, t.draws)) =
      some (0x11#32, 1) := by decide

/-- HI10: a soft reset aborts the command; bit 0 is not kept. -/
theorem test_soft_reset_aborts :
    afterEvent mulInFlight (hostWr ⟨1, 0⟩ 0x008 3#32) = some (dev 1 []) := by decide

/-- HI11: W1C sets nothing. -/
theorem test_w1c_sets_nothing : clearStatus (dev 1 []) 0x1F#32 = dev 1 [] := by decide

/-- HI12: SIGNS bits [31:16]. -/
theorem test_signs_upper_bits : readWord (writeWord (dev 1 []) 0x01C 0xFFFF0001#32) 0x01C = 1#32 := by decide

/-- HI13: a write to a read-only register is silent. -/
theorem test_write_id_ignored : afterEvent (dev 1 []) (hostWr ⟨1, 0⟩ 0x000 5#32) = some (dev 1 []) := by decide

/-- HI14, HI15: IRQ after a completion, with IE 1 and with IE 0. -/
theorem test_irq_level :
    irq (endCommand { dev 1 [] with ie := true }) = true ∧
    irq (writeCtrl (endCommand { dev 1 [] with ie := true }) 0#32) = false := by decide

/-- BY1, BY3: the host's byte strings. -/
theorem test_limbs_of_bytes :
    limbOfBytes [1#8, 2#8, 3#8, 4#8, 5#8] 0 = 0x02030405#32 ∧ limbOfBytes [1#8, 2#8, 3#8, 4#8, 5#8] 1 = 1#32 ∧
    limbOfBytes [0xFF#8, 0xFE#8, 0xFF#8, 0xFF#8, 0#8, 1#8] 1 = 0xFFFE#32 := by decide

/-- R48: the byte at the lowest address of a limb is its low byte. -/
theorem test_byte_lanes : byteLane 0x12345678#32 0 = 0x78#8 ∧ byteLane 0x12345678#32 3 = 0x12#8 := by decide

/-- RS2: a soft reset clears the fault record. -/
theorem test_soft_reset_clears_fault : afterEvent faulted (hostWr ⟨1, 0⟩ 0x008 2#32) = some (dev 1 []) := by decide

/-- RS3: recovery keeps the record. -/
theorem test_recovery_keeps_record :
    (afterEvent faulted (hostWr ⟨1, 0⟩ 0x00C 6#32)).map (fun t => (statusWord t, t.cause, t.faultCmd)) =
      some (0#32, .capacity, 0x00021303#32) := by decide

/-- HI18: SIGNS reads the sign bit of a negative zero; commands read 0. -/
theorem test_negative_zero : readWord negativeZero 0x01C = 2#32 ∧ readReg negativeZero 1 = 0 := by decide

/-- A word placed on the reference device right after reset runs at the next step: `LDW b5, #1` (R79). -/
theorem test_reset_runs_a_placed_word :
    step (State.reset.withFetchWord 32 0x00010510) =
      exec (.ldw 5 1#16) { State.reset with cmd := 0x00010510#32, busy := true } := by rfl

/-! ## Witnesses: states and operands that meet each obligation's hypotheses, clause by clause -/

/-- A device whose next event is the engine's turn on MUL b3, b1, b2. -/
def mulTurn : State := { mulInFlight with inputs := [.engine] }

theorem witness_DecodeEncodeReturnsCommand :
    Instr.wf (.divmod 15 0 15 14) = true ∧ Instr.wf (.ldw 15 0xFFFF#16) = true ∧ Instr.wf (.cmp 0 15) = true := by
  decide

theorem witness_EncodedWordIsTheSumOfItsFields : 0x3F < 2 ^ 6 := by decide

theorem witness_DecodedWordIsItsEncoding :
    decode 0x00FFFF11#32 = .ok (.montmul 15 15 15 15) ∧ decode 0x00F00006#32 = .ok (.divmod 0 0 0 15) := by decide

theorem witness_RegisterReadsAsSignedMagnitudeInRange :
    negativeZero.regs[(1 : RegIdx)].sign = true ∧ negativeZero.regs[(0 : RegIdx)].sign = false := by decide

theorem witness_WrittenRegisterHoldsItsValue :
    Int.natAbs (-0xFFFFFFFF) < capacity ⟨1, 0⟩ ∧ Int.natAbs 0xFFFFFFFF < capacity ⟨1, 0⟩ ∧
    (0 : Nat) < 1 ∧ (2 : RegIdx) ≠ 1 := by decide

/-- p + q reaches CAP exactly; p below q; p equal to q. -/
theorem witness_ChainsAddAndSubtractExactly :
    [1#32].length = [0xFFFFFFFF#32].length ∧
    limbsValue [1#32] + limbsValue [0xFFFFFFFF#32] = 2 ^ (32 * 1) ∧
    limbsValue [1#32] < limbsValue [0xFFFFFFFF#32] ∧ limbsValue [1#32] ≤ limbsValue [1#32] := by decide

theorem witness_LimbComparisonsAreIntegerOrder :
    [0#32, 1#32].length = [0xFFFFFFFF#32, 0#32].length ∧ Int.natAbs (-0xFFFFFFFF) < capacity ⟨1, 0⟩ ∧
    Int.natAbs (-1) < capacity ⟨1, 0⟩ := by decide

/-- The sums CAP - 1 and CAP, and a cancelling pair. -/
theorem witness_SignedAddIsExactOrCapacity :
    Int.natAbs 0xFFFFFFFE < capacity ⟨1, 0⟩ ∧ Int.natAbs 0xFFFFFFFF < capacity ⟨1, 0⟩ ∧
    Int.natAbs (0xFFFFFFFE + 1) < capacity ⟨1, 0⟩ ∧ capacity ⟨1, 0⟩ ≤ Int.natAbs (0xFFFFFFFF + 1) ∧
    capacity ⟨1, 0⟩ ≤ Int.natAbs (-0xFFFFFFFF + -1) ∧ Int.natAbs (0xFFFFFFFF + -0xFFFFFFFF) < capacity ⟨1, 0⟩ := by
  decide

theorem witness_AddWritesSum :
    let s := dev 1 [(1, 0xFFFFFFFE), (2, 1), (3, 2)]
    (readReg s 1 + readReg s 2).natAbs < capacity s.cfg ∧ capacity s.cfg ≤ (readReg s 1 + readReg s 3).natAbs := by
  decide

theorem witness_SubWritesDifference :
    let s := dev 1 [(1, -0xFFFFFFFE), (2, 1), (3, 2)]
    (readReg s 1 - readReg s 2).natAbs < capacity s.cfg ∧ capacity s.cfg ≤ (readReg s 1 - readReg s 3).natAbs := by
  decide

theorem witness_AdduWritesSumOfMagnitudes :
    let s := dev 1 [(1, -0xFFFFFFFE), (2, 1), (3, -2)]
    (readReg s 1).natAbs + (readReg s 2).natAbs < capacity s.cfg ∧
    capacity s.cfg ≤ (readReg s 1).natAbs + (readReg s 3).natAbs := by decide

theorem witness_SubuWritesDifferenceOfMagnitudes :
    let s := dev 1 [(1, -5), (2, 5), (3, 6)]
    (readReg s 2).natAbs ≤ (readReg s 1).natAbs ∧ (readReg s 1).natAbs < (readReg s 3).natAbs := by decide

theorem witness_IncAndDecStepByOne :
    let s := dev 1 [(1, 0xFFFFFFFE), (2, 0xFFFFFFFF), (3, -0xFFFFFFFE), (4, -0xFFFFFFFF)]
    s.cfg.wf = true ∧ readReg s 1 ≠ (capacity s.cfg : Int) - 1 ∧ readReg s 2 = (capacity s.cfg : Int) - 1 ∧
    readReg s 3 ≠ -((capacity s.cfg : Int) - 1) ∧ readReg s 4 = -((capacity s.cfg : Int) - 1) := by decide

theorem witness_LdwWritesZeroExtendedImmediate : (dev 1 []).cfg.wf = true := by decide

/-- The largest product that fits two 16-bit operands (MU5b), and MU5a. -/
theorem witness_MulWritesProduct :
    let s := dev 1 [(1, -0xFFFF), (2, 0xFFFF), (3, 0x10000)]
    (readReg s 1 * readReg s 2).natAbs < capacity s.cfg ∧ capacity s.cfg ≤ (readReg s 3 * readReg s 3).natAbs := by
  decide

theorem witness_DivmodWritesQuotientAndRemainder :
    let s := dev 1 [(1, 0), (2, 1), (3, -1)]
    (5 : RegIdx) = 5 ∧ (5 : RegIdx) ≠ 6 ∧ (readReg s 3 < 0 ∨ readReg s 1 < 0) ∧
    (readReg s 2 < 0 ∨ readReg s 3 < 0) ∧ 0 ≤ readReg s 1 ∧ readReg s 1 = 0 ∧ 0 < readReg s 2 := by decide

/-- Counts -1, 31 (the last that fits) and 32 (the first that does not). -/
theorem witness_ShlShiftsMagnitudeLeft :
    let s := dev 1 [(1, -1), (2, 31), (3, 32)]
    readReg s 1 < 0 ∧ 0 ≤ readReg s 2 ∧ (readReg s 1).natAbs * 2 ^ (readReg s 2).toNat < capacity s.cfg ∧
    0 ≤ readReg s 3 ∧ capacity s.cfg ≤ (readReg s 1).natAbs * 2 ^ (readReg s 3).toNat := by decide

theorem witness_ShrTruncatesTowardZero :
    let s := dev 1 [(1, -1), (2, 0)]
    readReg s 1 < 0 ∧ 0 ≤ readReg s 2 := by decide

theorem witness_BitWritesMagnitudeBit :
    let s := dev 1 [(1, -1), (2, 0)]
    readReg s 1 < 0 ∧ 0 ≤ readReg s 2 := by decide

/-- MM8, MM6, MM4, MM5, MM1 (Rinv = 9) and MM9 (Rinv = 1). -/
theorem witness_MontmulWritesMontgomeryProduct :
    let s := dev 1 [(1, 7), (2, 11), (3, 13), (4, 14), (5, 1), (6, -13), (7, 0xFFFFFFFF), (8, 3)]
    (readReg s 1 < 0 ∨ readReg s 2 < 0 ∨ readReg s 6 < 0) ∧ 0 ≤ readReg s 1 ∧ 0 ≤ readReg s 2 ∧ readReg s 0 = 0 ∧
    0 < readReg s 4 ∧ readReg s 4 % 2 = 0 ∧ readReg s 5 = 1 ∧ 1 < readReg s 3 ∧ readReg s 3 % 2 = 1 ∧
    2 ^ bitlen 13 * 9 % 13 = 1 ∧ montProd 7 11 13 < capacity s.cfg ∧
    1 < readReg s 8 ∧ readReg s 8 % 2 = 1 ∧ 2 ^ bitlen 3 * 1 % 3 = 1 ∧
    capacity s.cfg ≤ montProd (readReg s 7).natAbs (readReg s 7).natAbs 3 := by decide

theorem witness_ModexpWritesPowerResidue :
    let s := dev 1 [(1, 0), (2, 1), (3, -1)]
    (readReg s 1 < 0 ∨ readReg s 3 < 0 ∨ readReg s 2 < 0) ∧ 0 ≤ readReg s 1 ∧ readReg s 1 = 0 ∧
    0 < readReg s 2 := by decide

theorem witness_AddSubUndoEachOther :
    let s := dev 1 [(1, 0xFFFFFFFE), (2, 1), (4, -1)]
    s.cfg.wf = true ∧ (3 : RegIdx) ≠ 2 ∧ (readReg s 1 + readReg s 2).natAbs < capacity s.cfg ∧
    (readReg s 1 - readReg s 4).natAbs < capacity s.cfg ∧
    (readReg s 1).natAbs + (readReg s 2).natAbs < capacity s.cfg ∧
    (readReg s 2).natAbs ≤ (readReg s 1).natAbs ∧ readReg s 1 < (capacity s.cfg : Int) - 1 := by decide

theorem witness_DivmodResultsSatisfyDivisionLaw :
    let s := dev 1 [(1, 0), (2, 1)]
    (3 : RegIdx) ≠ 4 ∧ 0 ≤ readReg s 1 ∧ 0 < readReg s 2 := by decide

theorem witness_SchoolbookProductIsExact :
    [0xFFFFFFFF#32].length = [0xFFFFFFFF#32].length ∧ Int.natAbs (-0xFFFFFFFF) < capacity ⟨1, 0⟩ ∧
    Int.natAbs 0xFFFFFFFF < capacity ⟨1, 0⟩ := by decide

theorem witness_RestoringDivisionIsExact : 0 < 1 := by decide

theorem witness_LimbShiftsEqualValueShifts :
    0xFFFFFFFF < capacity ⟨1, 0⟩ ∧ 1 * 2 ^ 31 < capacity ⟨1, 0⟩ := by decide

theorem witness_MontgomeryConstantsMeetTheirDefinition :
    3 ≤ 3 ∧ 3 % 2 = 1 ∧ 1 ≤ 1 ∧ 1 < 3 ∧ montR 3 * 1 % 3 = 1 := by decide

theorem witness_MontProdIsReducedMontgomeryProduct : 3 ≤ 15 ∧ 15 % 2 = 1 ∧ 3 < 15 ∧ 14 < 15 := by decide

theorem witness_BothExponentiationMethodsGiveThePower : 1 ≤ 1 ∧ 1 ≤ 3 ∧ 3 ≤ 3 ∧ 3 % 2 = 1 := by decide

theorem witness_WritingCommandsLeaveTheRest :
    destsOf (.divmod 3 1 2 4) ≠ [] ∧ (5 : RegIdx) ∉ destsOf (.divmod 3 1 2 4) ∧
    ∃ t, exec (.divmod 3 1 2 4) (dev 1 [(1, 100), (2, 7)]) = .next t := ⟨by decide, by decide, _, rfl⟩

theorem witness_CmpLeavesRegistersAndResultFlags :
    ∃ t, exec (.cmp 1 2) (dev 1 [(1, 3), (2, 5)]) = .next t := ⟨_, rfl⟩

theorem witness_ResultFlagsDescribeTheDestination :
    (dev 1 [(1, 5), (2, -5)]).cfg.wf = true ∧ (destsOf (.add 3 1 2)).head? = some 3 ∧
    (dev 1 [(1, 5), (2, -5)]).fault = false ∧
    ∃ t, exec (.add 3 1 2) (dev 1 [(1, 5), (2, -5)]) = .next t ∧ t.fault = false :=
  ⟨by decide, by decide, by decide, _, rfl, by decide⟩

theorem witness_IllegalWordTakesIllegalCmdFault :
    let s := issue (dev 1 []) 0#32
    s.busy = true ∧ s.resetIn = false ∧ decode s.cmd = .error .reservedOpcode ∧ s.inputs = [] ∧
    ({ s with inputs := [.engine] } : State).inputs = .engine :: [] := by decide

/-- A completion, a fault and a soft reset are all steps that answer a next state. -/
theorem witness_FaultRecordChangesOnlyByFaultOrReset :
    (∃ t, step mulTurn = .next t) ∧
    (∃ t, step (issue (dev 1 []) 0#32) = .next t) ∧
    ∃ t, step { faulted with inputs := [hostWr ⟨1, 0⟩ 0x008 2#32] } = .next t := ⟨⟨_, rfl⟩, ⟨_, rfl⟩, ⟨_, rfl⟩⟩

theorem witness_EngineStepRunsDecodedCommand :
    mulTurn.busy = true ∧ mulTurn.resetIn = false ∧ decode mulTurn.cmd = .ok (.mul 3 1 2) ∧
    mulTurn.inputs = .engine :: [] ∧ mulInFlight.inputs = [] ∧
    (endCommand mulTurn).busy = false ∧ (endCommand mulTurn).inputs = .engine :: [] ∧
    decode (endCommand mulTurn).cmd = .ok (.mul 3 1 2) ∧ (endCommand mulInFlight).busy = false ∧
    (endCommand mulInFlight).inputs = [] := by decide

theorem witness_CommandCompletesAfterAnyStatusPolls :
    let s := { mulInFlight with inputs := [hostRd ⟨1, 0⟩ 0x00C, hostRd ⟨1, 0⟩ 0x00C] }
    s.busy = true ∧ s.resetIn = false ∧ s.inputs = List.replicate 2 (hostRd s.cfg 0x00C) ∧
    mulInFlight.inputs = List.replicate 0 (hostRd mulInFlight.cfg 0x00C) := by decide

/-- The first address above the aperture. -/
theorem witness_OnlyAccessesOutsideTheApertureStop :
    step { dev 1 [] with inputs := [.read 0x8000 4] } = .fault (.outsideAperture 0x8000) := rfl

theorem witness_ResetMeetsTheInvariant :
    Config.wf ⟨1, 0⟩ = true ∧ Config.wf ⟨256, 0x8000⟩ = true ∧ Config.wf Config.reference = true := by decide

theorem witness_EveryStepKeepsTheInvariant : mulTurn.Inv ∧ ∃ t, step mulTurn = .next t := by
  refine ⟨?_, _, rfl⟩
  simp only [State.Inv, State.LimbCount, State.Handshake, State.FlagsLegal, State.FaultRecord, State.HeldInReset]
  decide

theorem witness_ResetLeavesTheListedValues : Config.wf ⟨1, 0⟩ = true ∧ Config.wf ⟨256, 0⟩ = true := by decide

theorem witness_StatusWordHasTheListedBits : 7 ∈ [5, 6, 7] ∧ 13 ≤ 13 ∧ 13 ≤ 31 := by decide

/-- A register while busy, the edges outside the window, limbs while idle, and each cause. -/
theorem witness_NormalReadsHaveNoSideEffect :
    let s := { mulInFlight with inputs := [hostRd ⟨1, 0⟩ 0x00C] }
    let s' := { dev 1 [] with inputs := [hostRd ⟨1, 0⟩ 0x4FFC] }
    s.inputs = hostRd s.cfg 0x00C :: [] ∧ s.resetIn = false ∧ 0x00C < 0x8000 ∧ 0x00C % 4 = 0 ∧
    [0x00C, 0x018, 0x020, 0x0FFC, 0x5000, 0x7FFC].all
      (fun off => decide (off ≠ 0x01C ∧ ¬(0x1000 ≤ off ∧ off ≤ 0x4FFC))) = true ∧
    s'.inputs = hostRd s'.cfg 0x4FFC :: [] ∧ s'.resetIn = false ∧ 0x4FFC < 0x8000 ∧ 0x4FFC % 4 = 0 ∧
    s'.busy = false ∧ (dev 1 []).cause = .none ∧ faulted.cause = .capacity ∧
    [Cause.illegalCmd, .zeroDivide, .operationSource, .magnitudeOrder, .modulus].all
      (fun c => decide ((faultEntry mulInFlight c).cause = c)) = true := by decide

/-- A write of limb 0 of b1 and of limb 255 of b15, above M, with BUSY = 0. -/
theorem witness_LimbWindowReachesItsLimb :
    let s : State := { dev 1 [(1, 5)] with inputs := [hostWr ⟨1, 0⟩ 0x1400 7#32] }
    let s' : State := { dev 1 [(1, 5)] with inputs := [hostWr ⟨1, 0⟩ 0x4FFC 7#32] }
    s.Inv ∧ s'.Inv ∧ 0 < s.cfg.maxLimbs ∧ s'.cfg.maxLimbs ≤ 255 ∧
    s.inputs = hostWr s.cfg (0x1000 + 0x400 * (1 : RegIdx).val + 4 * 0) 7#32 :: [] ∧ s.resetIn = false ∧
    s.busy = false ∧
    s'.inputs = hostWr s'.cfg (0x1000 + 0x400 * (15 : RegIdx).val + 4 * 255) 7#32 :: [] ∧
    s'.resetIn = false ∧ s'.busy = false := by
  refine ⟨?_, ?_, by decide⟩ <;>
    simp only [State.Inv, State.LimbCount, State.Handshake, State.FlagsLegal, State.FaultRecord, State.HeldInReset] <;>
    decide

theorem witness_SignsRegisterHoldsTheSignBits :
    let s := { dev 1 [(1, 5)] with inputs := [hostWr ⟨1, 0⟩ 0x01C 2#32] }
    16 ≤ 16 ∧ 16 ≤ 31 ∧ s.inputs = hostWr s.cfg 0x01C 2#32 :: [] ∧ s.resetIn = false ∧ s.busy = false := by decide

/-- SIGNS and both ends of the limb window. -/
theorem witness_BusyRuleBlocksOperandAccesses :
    let s := { mulInFlight with inputs := [hostRd ⟨1, 0⟩ 0x4FFC] }
    let s' := { mulInFlight with inputs := [hostWr ⟨1, 0⟩ 0x01C 1#32] }
    s.busy = true ∧ s.resetIn = false ∧ s.inputs = hostRd s.cfg 0x4FFC :: [] ∧ s'.busy = true ∧
    s'.resetIn = false ∧ s'.inputs = hostWr s'.cfg 0x01C 1#32 :: [] ∧
    [0x01C, 0x1000, 0x4FFC].all
      (fun off => decide (off % 4 = 0 ∧ (off = 0x01C ∨ (0x1000 ≤ off ∧ off ≤ 0x4FFC)))) = true := by decide

/-- A misaligned access of 4 bytes and an aligned one of 2. -/
theorem witness_AbnormalAccessesSetAccErr :
    let s := { dev 1 [] with inputs := [.read 0x002 4] }
    let s' := { dev 1 [] with inputs := [.write 0x7FFC 2 1#32] }
    s.resetIn = false ∧ 0x002 < 0x8000 ∧ (4 ≠ 4 ∨ 0x002 % 4 ≠ 0) ∧
    s.inputs = .read (s.cfg.baseAddr + 0x002) 4 :: [] ∧ s'.resetIn = false ∧ 0x7FFC < 0x8000 ∧
    (2 ≠ 4 ∨ 0x7FFC % 4 ≠ 0) ∧ s'.inputs = .write (s'.cfg.baseAddr + 0x7FFC) 2 1#32 :: [] := by decide

theorem witness_StatusWriteClearsBitsWrittenOne :
    let s := { faulted with inputs := [hostWr ⟨1, 0⟩ 0x00C 6#32] }
    s.inputs = hostWr s.cfg 0x00C 6#32 :: [] ∧ s.resetIn = false := by decide

/-- An idle device, a busy one and a faulted one. -/
theorem witness_CommandWriteIsAcceptedOrDropped :
    let e := hostWr ⟨1, 0⟩ 0x010 0x00010510#32
    let s := { dev 1 [] with inputs := [e] }
    let b := { mulInFlight with inputs := [e] }
    let f := { faulted with inputs := [e] }
    s.inputs = hostWr s.cfg 0x010 0x00010510#32 :: [] ∧ s.resetIn = false ∧ s.busy = false ∧ s.fault = false ∧
    b.inputs = hostWr b.cfg 0x010 0x00010510#32 :: [] ∧ b.resetIn = false ∧ b.busy = true ∧
    f.inputs = hostWr f.cfg 0x010 0x00010510#32 :: [] ∧ f.resetIn = false ∧ f.fault = true := by decide

theorem witness_SoftResetGivesResetValues :
    let s := { mulInFlight with inputs := [hostWr ⟨1, 0⟩ 0x008 3#32] }
    let s' := { mulInFlight with inputs := [hostWr ⟨1, 0⟩ 0x008 1#32] }
    s.inputs = hostWr s.cfg 0x008 3#32 :: [] ∧ s.resetIn = false ∧ BitVec.getLsbD 3#32 1 = true ∧
    s'.inputs = hostWr s'.cfg 0x008 1#32 :: [] ∧ s'.resetIn = false ∧ BitVec.getLsbD 1#32 1 = false := by decide

/-- Assertion during a command, release, and each kind of event while held. -/
theorem witness_ResetInputResetsAndHolds :
    ({ mulInFlight with inputs := [.resetPin true] } : State).inputs = .resetPin true :: [] ∧
    mulInFlight.resetIn ≠ true ∧ heldInReset.resetIn ≠ false ∧ heldInReset.resetIn = true ∧
    heldInReset.inputs = [] ∧ ({ heldInReset with inputs := [.engine] } : State).inputs = .engine :: [] ∧
    ({ heldInReset with inputs := [.read 0x000 4] } : State).inputs = .read 0x000 4 :: [] ∧
    ({ heldInReset with inputs := [.write 0x7FFC 4 1#32] } : State).inputs = .write 0x7FFC 4 1#32 :: [] ∧
    inAperture heldInReset.cfg 0x000 = true ∧ inAperture heldInReset.cfg 0x7FFF = true := by decide

/-- A read-only register and the edges of both reserved ranges. -/
theorem witness_ReadOnlyAndReservedOffsetsIgnoreWrites :
    let s := { dev 1 [] with inputs := [hostWr ⟨1, 0⟩ 0x7FFC 1#32] }
    s.resetIn = false ∧ s.inputs = hostWr s.cfg 0x7FFC 1#32 :: [] ∧
    [0x000, 0x018, 0x020, 0x0FFC, 0x5000, 0x7FFC].all (fun off => decide (off % 4 = 0 ∧
      (off ∈ [0x000, 0x004, 0x014, 0x018] ∨ (0x020 ≤ off ∧ off < 0x1000) ∨ (0x5000 ≤ off ∧ off < 0x8000)))) = true ∧
    [0x020, 0x0FFF, 0x5000, 0x7FFF].all
      (fun off => decide ((0x020 ≤ off ∧ off < 0x1000) ∨ (0x5000 ≤ off ∧ off < 0x8000))) = true := by decide

theorem witness_IrqFollowsCompletionAndEnable :
    (∃ t, exec (.ldw 1 3#16) { dev 1 [] with ie := true } = .next t) ∧ BitVec.getLsbD 2#32 1 = true ∧
    (dev 1 []).busy = false ∧ (dev 1 []).fault = false ∧ BitVec.getLsbD 1#32 1 = false :=
  ⟨⟨_, rfl⟩, by decide⟩

/-- An operand write and a soft reset while MUL is in flight. -/
theorem witness_HostCannotTouchCommandInFlight :
    mulInFlight.busy = true ∧ mulInFlight.resetIn = false ∧
    Event.addr? (hostWr ⟨1, 0⟩ 0x1400 7#32) = some 0x1400 ∧
    (∃ t, step { mulInFlight with inputs := [hostWr ⟨1, 0⟩ 0x1400 7#32] } = .next t) ∧
    Event.addr? (hostWr ⟨1, 0⟩ 0x008 2#32) = some 0x008 ∧
    ∃ t, step { mulInFlight with inputs := [hostWr ⟨1, 0⟩ 0x008 2#32] } = .next t :=
  ⟨by decide, by decide, by decide, ⟨_, rfl⟩, by decide, ⟨_, rfl⟩⟩

theorem witness_HostAccessesWriteNoResultFlag :
    Event.addr? (hostRd ⟨1, 0⟩ 0x00C) = some 0x00C ∧
    (∃ t, step { faulted with inputs := [hostRd ⟨1, 0⟩ 0x00C] } = .next t) ∧
    ∃ t, step { faulted with inputs := [hostWr ⟨1, 0⟩ 0x008 2#32] } = .next t := ⟨by decide, ⟨_, rfl⟩, ⟨_, rfl⟩⟩

end Sys2Proof.Tests
end

section
/-! PROOFS. How a command's completion ends, and which steps stop the machine: the scope family, O42 and O43. -/

namespace Sys2Proof.Machine

/-! ## A command's completion -/

/-- A success's register writes touch the register file only. -/
theorem applyWrites_frame (s : State) (ws : List (RegIdx × Int)) :
    ∃ rs, applyWrites s ws = { s with regs := rs } := by
  induction ws generalizing s with
  | nil => exact ⟨s.regs, rfl⟩
  | cons p ws ih =>
    obtain ⟨rs, h⟩ := ih (writeReg s p.1 p.2)
    exact ⟨rs, h⟩

@[simp] theorem setFlags_inputs (s : State) (fl : FlagWrite) : (setFlags s fl).inputs = s.inputs := by
  cases fl <;> rfl

@[simp] theorem setFlags_replies (s : State) (fl : FlagWrite) : (setFlags s fl).replies = s.replies := by
  cases fl <;> rfl

@[simp] theorem complete_busy (s : State) (r : ExecResult) : (complete s r).busy = false := by
  cases r <;> rfl

@[simp] theorem complete_done (s : State) (r : ExecResult) : (complete s r).done = true := by
  cases r <;> rfl

@[simp] theorem complete_inputs (s : State) (r : ExecResult) : (complete s r).inputs = s.inputs := by
  cases r with
  | success ws fl =>
    obtain ⟨rs, h⟩ := applyWrites_frame s ws
    simp [complete, h]
  | fault c => rfl

@[simp] theorem complete_replies (s : State) (r : ExecResult) : (complete s r).replies = s.replies := by
  cases r with
  | success ws fl =>
    obtain ⟨rs, h⟩ := applyWrites_frame s ws
    simp [complete, h]
  | fault c => rfl

/-- Legal or illegal, the command in flight completes (R57, R72). -/
theorem runCommand_completes (s : State) : ∃ r, runCommand s = .next (complete s r) := by
  obtain h | ⟨_, r, -, -, h⟩ := runCommand_cases s
  · exact ⟨.fault .illegalCmd, h⟩
  · exact ⟨r, h⟩

/-- With no input left, the engine out of reset completes its command (R16). -/
theorem step_nil_busy {s : State} (hi : s.inputs = []) (hb : s.busy = true) (hr : s.resetIn = false) :
    ∃ r, step s = .next (complete s r) := by
  rw [step_nil hi, engineTurn_busy hb hr]
  exact runCommand_completes s

/-! ## STATUS polls -/

/-- A STATUS poll out of reset only takes its input and gives its reply (R53, R54). Which word comes back
matters to no liveness fact. -/
theorem step_statusPoll {s : State} {rest : List Event} (hi : s.inputs = hostRd s.cfg 0x00C :: rest)
    (hr : s.resetIn = false) :
    ∃ w, step s = .next (reply { s with inputs := rest } (s.cfg.baseAddr + 0x00C) 4 w) := by
  rw [step_read hi hr (by decide), hostRead_normal (by decide) (.inl (by decide))]
  exact ⟨_, rfl⟩

/-- A run whose first step answers a state goes on from there. -/
theorem run_succ_of_next {M : Host.Core} {s t : M.State} (k : Nat) (h : M.step s = .next t) :
    M.run (k + 1) s = M.run k t := by
  simp [Host.Core.run, h]

/-- Settles O42, by induction on the polls: each leaves the command in flight, and the engine's turn after
the last one completes it. -/
theorem commandCompletesAfterAnyStatusPolls : Obligations.CommandCompletesAfterAnyStatusPolls := by
  unfold Obligations.CommandCompletesAfterAnyStatusPolls
  intro s polls hb hr hi
  induction polls generalizing s with
  | zero =>
    obtain ⟨r, hstep⟩ := step_nil_busy hi hb hr
    exact ⟨complete s r, run_succ_of_next (M := core) 0 hstep, ⟨by simpa using hi, by simp⟩, by simp, by simp⟩
  | succ polls ih =>
    obtain ⟨w, hstep⟩ := step_statusPoll hi hr
    obtain ⟨t, hrun, hfinal, hdone, hreplies⟩ :=
      ih (reply { s with inputs := List.replicate polls (hostRd s.cfg 0x00C) } _ 4 w) hb hr rfl
    refine ⟨t, (run_succ_of_next (M := core) _ hstep).trans hrun, hfinal, hdone, ?_⟩
    simp only [hreplies, reply_replies, List.length_cons]
    omega

/-! ## Stops -/

/-- The engine's turn, enabled or not, answers a next state. -/
theorem engineTurn_answers (s : State) : ∃ t, engineTurn s = .next t := by
  by_cases h : s.busy = true ∧ s.resetIn = false
  · obtain ⟨r, hr⟩ := runCommand_completes s
    exact ⟨_, (engineTurn_busy h.1 h.2).trans hr⟩
  · exact ⟨s, engineTurn_idle h⟩

theorem memRead_answers {s : State} {addr : Nat} (size : Nat) (h : inAperture s.cfg addr = true) :
    ∃ t, memRead s addr size = .next t := by
  cases hr : s.resetIn <;> simp [memRead, h, hr]

theorem memWrite_answers {s : State} {addr : Nat} (size : Nat) (v : Word) (h : inAperture s.cfg addr = true) :
    ∃ t, memWrite s addr size v = .next t := by
  cases hr : s.resetIn <;> simp [memWrite, h, hr]

/-- An event that is no host access outside the aperture answers a next state. -/
theorem takeEvent_answers {s : State} {e : Event}
    (h : ∀ addr, e.addr? = some addr → inAperture s.cfg addr = true) : ∃ t, takeEvent s e = .next t := by
  cases e with
  | read addr size => exact memRead_answers size (h addr rfl)
  | write addr size v => exact memWrite_answers size v (h addr rfl)
  | engine => exact engineTurn_answers s
  | resetPin asserted => exact ⟨_, rfl⟩

/-- A host access outside the aperture stops the machine and names its address (R10; log 5). -/
theorem takeEvent_outside {s : State} {e : Event} {addr : Nat} (he : e.addr? = some addr)
    (h : inAperture s.cfg addr = false) : takeEvent s e = .fault (.outsideAperture addr) := by
  cases e with
  | read a size => obtain rfl := Option.some.inj he; exact if_pos h
  | write a size v => obtain rfl := Option.some.inj he; exact if_pos h
  | engine => exact nomatch he
  | resetPin asserted => exact nomatch he

/-- The first input is a host access to `addr`, outside the aperture. -/
def State.NextOutside (s : State) (addr : Nat) : Prop :=
  ∃ e rest, s.inputs = e :: rest ∧ e.addr? = some addr ∧ inAperture s.cfg addr = false

theorem step_outside {s : State} {addr : Nat} (h : s.NextOutside addr) :
    step s = .fault (.outsideAperture addr) := by
  obtain ⟨e, rest, hi, he, ha⟩ := h
  exact (step_cons hi).trans (takeEvent_outside he ha)

theorem step_answers {s : State} (h : ∀ addr, ¬s.NextOutside addr) : ∃ t, step s = .next t := by
  cases hi : s.inputs with
  | nil =>
    rw [step_nil hi]
    exact engineTurn_answers s
  | cons e rest =>
    rw [step_cons hi]
    refine takeEvent_answers fun addr he => ?_
    by_contra ha
    exact h addr ⟨e, rest, hi, he, Bool.eq_false_iff.mpr ha⟩

/-- A step answers a next state, or stops on the access outside the aperture that it meets. -/
theorem step_cases (s : State) :
    (∃ t, step s = .next t) ∨ ∃ addr, s.NextOutside addr ∧ step s = .fault (.outsideAperture addr) := by
  by_cases h : ∃ addr, s.NextOutside addr
  · obtain ⟨addr, h⟩ := h
    exact .inr ⟨addr, h, step_outside h⟩
  · exact .inl (step_answers (not_exists.mp h))

/-- Settles O43: a step that is not a next state is the stop of `step_cases`. -/
theorem onlyAccessesOutsideTheApertureStop : Obligations.OnlyAccessesOutsideTheApertureStop := by
  unfold Obligations.OnlyAccessesOutsideTheApertureStop
  intro s
  refine ⟨fun r hr => ?_, fun f => ⟨fun hf => ?_, ?_⟩⟩
  · obtain ⟨t, h⟩ | ⟨addr, -, h⟩ := step_cases s <;> exact nomatch h.symm.trans hr
  · obtain ⟨t, h⟩ | ⟨addr, ⟨e, rest, hi, he, ha⟩, h⟩ := step_cases s
    · exact nomatch h.symm.trans hf
    · exact ⟨e, rest, addr, hi, he, ha, Host.Outcome.fault.inj (hf.symm.trans h)⟩
  · rintro ⟨e, rest, addr, hi, he, ha, rfl⟩
    exact step_outside ⟨e, rest, hi, he, ha⟩

end Sys2Proof.Machine
end

section
/-! PROOFS. What a completion, a host access and a step can do to the state, and what every step keeps: the
state family's frames and invariant, O35, O40, O44, O45, O58 and O60. -/

namespace Sys2Proof.Machine

/-! ## A completion -/

/-- A success changes no register outside its writes (R57). -/
theorem applyWrites_getElem_of_notMem {s : State} {ws : List (RegIdx × Int)} {i : RegIdx}
    (h : ∀ p ∈ ws, p.1 ≠ i) : (applyWrites s ws).regs[i] = s.regs[i] := by
  induction ws generalizing s with
  | nil => rfl
  | cons p ws ih =>
    obtain ⟨hp, hws⟩ := List.forall_mem_cons.mp h
    calc (applyWrites (writeReg s p.1 p.2) ws).regs[i]
        = (writeReg s p.1 p.2).regs[i] := ih hws
      _ = s.regs[i] := by rw [writeReg_getElem, if_neg (Ne.symm hp)]

theorem writeReg_limbCount {s : State} (h : s.LimbCount) (i : RegIdx) (v : Int) : (writeReg s i v).LimbCount := by
  intro k
  rw [writeReg_getElem, writeReg_cfg]
  split
  · exact limbsOf_length _ _
  · exact h k

theorem applyWrites_limbCount {s : State} (h : s.LimbCount) (ws : List (RegIdx × Int)) :
    (applyWrites s ws).LimbCount := by
  induction ws generalizing s with
  | nil => exact h
  | cons p ws ih => exact ih (writeReg_limbCount h p.1 p.2)

/-- A success keeps everything outside the register file, the result flags, BUSY and DONE. -/
theorem complete_success (s : State) (ws : List (RegIdx × Int)) (fl : FlagWrite) :
    complete s (.success ws fl) =
      { setFlags s fl with regs := (applyWrites s ws).regs, busy := false, done := true } := by
  obtain ⟨rs, h⟩ := applyWrites_frame s ws
  rw [complete, h]
  cases fl <;> rfl

theorem complete_surroundings (s : State) (r : ExecResult) : SameSurroundings s (complete s r) := by
  cases r with
  | success ws fl =>
    rw [complete_success]
    cases fl <;> exact ⟨rfl, rfl, rfl, rfl, rfl, rfl, rfl, rfl, rfl⟩
  | fault c => exact ⟨rfl, rfl, rfl, rfl, rfl, rfl, rfl, rfl, rfl⟩

theorem complete_limbCount {s : State} (h : s.LimbCount) (r : ExecResult) : (complete s r).LimbCount := by
  cases r with
  | success ws fl =>
    rw [complete_success]
    have hws := applyWrites_limbCount h ws
    obtain ⟨rs, hrs⟩ := applyWrites_frame s ws
    rw [hrs] at hws ⊢
    cases fl <;> exact hws
  | fault c => exact h

/-- The results the engine ends a command with: a cause other than NONE, or flags of one value or of one
comparison. -/
inductive ExecResult.Legal : ExecResult → Prop
  | fault {c : Cause} (h : c ≠ .none) : Legal (.fault c)
  | result (ws : List (RegIdx × Int)) (v : Int) : Legal (.success ws (resultFlags v))
  | order (ws : List (RegIdx × Int)) (a b : Int) : Legal (.success ws (orderFlags a b))

theorem Ends.legal {i : Instr} {r : ExecResult} (h : Ends i r) : r.Legal := by
  cases h with
  | raises c h => exact .fault fun hc => none_not_mem_causesOf i (hc ▸ h)
  | writesOne rd v h => exact .result _ v
  | writesTwo rd rs3 q r h hne => exact .result _ q
  | compares a b h => exact .order _ a b

/-- Legal word or not, the command in flight completes with a legal result (R57, R72). -/
theorem runCommand_legal (s : State) : ∃ r, r.Legal ∧ runCommand s = .next (complete s r) := by
  obtain h | ⟨i, r, -, he, h⟩ := runCommand_cases s
  · exact ⟨.fault .illegalCmd, .fault nofun, h⟩
  · exact ⟨r, he.legal, h⟩

/-- What the engine's turn answers: the state as it was, or the completion of the command in flight. -/
theorem engineTurn_cases {s t : State} (h : engineTurn s = .next t) :
    t = s ∨ (s.busy = true ∧ s.resetIn = false ∧ ∃ r, r.Legal ∧ t = complete s r) := by
  by_cases he : s.busy = true ∧ s.resetIn = false
  · obtain ⟨r, hr, hrun⟩ := runCommand_legal s
    rw [engineTurn_busy he.1 he.2, hrun] at h
    exact .inr ⟨he.1, he.2, r, hr, (Host.Outcome.next.inj h).symm⟩
  · rw [engineTurn_idle he] at h
    exact .inl (Host.Outcome.next.inj h).symm

/-- A completion keeps the fault record, or faults and records its cause and the word in flight (R36, R37). -/
theorem complete_faultRecord {s : State} {r : ExecResult} (h : r.Legal) :
    ((complete s r).fault = s.fault ∧ (complete s r).cause = s.cause ∧ (complete s r).faultCmd = s.faultCmd) ∨
    ((complete s r).fault = true ∧ (complete s r).cause ≠ .none ∧ (complete s r).faultCmd = s.cmd) := by
  cases h with
  | fault h => exact .inr ⟨rfl, h, rfl⟩
  | result ws v => rw [complete_success]; exact .inl ⟨rfl, rfl, rfl⟩
  | order ws a b => rw [complete_success]; exact .inl ⟨rfl, rfl, rfl⟩

theorem complete_flagsLegal {s : State} {r : ExecResult} (hr : r.Legal) (h : s.FlagsLegal) :
    (complete s r).FlagsLegal := by
  cases hr with
  | fault _ => exact h
  | result ws v =>
    obtain ⟨-, horder⟩ := h
    rw [complete_success]
    exact ⟨by simp [resultFlags]; omega, horder⟩
  | order ws a b =>
    obtain ⟨hzn, -⟩ := h
    rw [complete_success]
    refine ⟨hzn, ?_⟩
    simp [orderFlags]; omega

/-! ## A host access -/

/-- What a host access `e` can leave of a state. In reset it only gets a reply (R143). Out of reset it soft-resets
(R144), hands in a command (R55), or touches the port's own fields: then it writes operands only with BUSY = 0
(R53), sets neither DONE nor FAULT (R34), and leaves the command, its fault record and the result flags. -/
inductive HostEffect (s : State) (e : Event) : State → Prop
  | held (h : s.resetIn = true) (rs : List Reply) : HostEffect s e { s with replies := rs }
  | softReset (h : s.resetIn = false) (v : Word) (he : e = hostWr s.cfg 0x008 v) (hv : v.getLsbD 1 = true) :
      HostEffect s e (resetState s)
  | accepted (h : s.resetIn = false) (hb : s.busy = false) (hf : s.fault = false) (w : Word) :
      HostEffect s e { s with cmd := w, busy := true, done := false }
  | port (h : s.resetIn = false) {regs : Vector BigReg 16} {done fault : Bool}
      (hregs : ∀ i : RegIdx, regs[i].limbs.length = s.regs[i].limbs.length)
      (hbusy : s.busy = true → regs = s.regs) (hdone : done = true → s.done = true)
      (hfault : fault = true → s.fault = true) (ie cmdOvr accErr : Bool) (rs : List Reply) (draws : Nat) :
      HostEffect s e { s with regs := regs, ie := ie, done := done, fault := fault, cmdOvr := cmdOvr,
                              accErr := accErr, replies := rs, draws := draws }

/-- An access that touches the port's own fields alone. -/
theorem HostEffect.portOnly {s : State} {e : Event} (h : s.resetIn = false) (ie cmdOvr accErr : Bool)
    (rs : List Reply) (draws : Nat) :
    HostEffect s e { s with ie := ie, cmdOvr := cmdOvr, accErr := accErr, replies := rs, draws := draws } :=
  .port h (fun _ => rfl) (fun _ => rfl) id id ie cmdOvr accErr rs draws

/-- An operand write, taken with BUSY = 0. -/
theorem HostEffect.operandWrite {s : State} {e : Event} (h : s.resetIn = false) (hb : s.busy = false)
    {regs : Vector BigReg 16} (hregs : ∀ i : RegIdx, regs[i].limbs.length = s.regs[i].limbs.length) :
    HostEffect s e { s with regs := regs } :=
  .port h hregs (fun hb' => nomatch hb.symm.trans hb') id id s.ie s.cmdOvr s.accErr s.replies s.draws

theorem memRead_effect {s t : State} {addr size : Nat} (h : memRead s addr size = .next t) :
    HostEffect s (.read addr size) t := by
  cases hr : s.resetIn with
  | false =>
    obtain ⟨rs, d, b, rfl⟩ := memRead_frame h
    exact .portOnly hr s.ie s.cmdOvr b rs d
  | true =>
    unfold memRead at h
    split at h
    · exact nomatch h
    · obtain rfl := Host.Outcome.next.inj h
      exact .held hr _

theorem clearStatus_effect {s : State} (e : Event) (v : Word) (h : s.resetIn = false) :
    HostEffect s e (clearStatus s v) :=
  .port h (fun _ => rfl) (fun _ => rfl) (fun hd => (Bool.and_eq_true_iff.mp hd).1)
    (fun hf => (Bool.and_eq_true_iff.mp hf).1) s.ie _ _ s.replies s.draws

theorem issue_effect {s : State} (e : Event) (w : Word) (h : s.resetIn = false) : HostEffect s e (issue s w) := by
  unfold issue
  split
  · rename_i hidle; exact .accepted h hidle.1 hidle.2 w
  · exact .portOnly h s.ie true s.accErr s.replies s.draws

theorem writeCtrl_effect {s : State} (v : Word) (h : s.resetIn = false) :
    HostEffect s (hostWr s.cfg 0x008 v) (writeCtrl s v) := by
  unfold writeCtrl
  split
  · rename_i hv; exact .softReset h v rfl hv
  · exact .portOnly h _ s.cmdOvr s.accErr s.replies s.draws

/-- A limb write keeps the number of limbs of every register (R20, R47). -/
theorem writeLimb_limbs_length (s : State) (i k : RegIdx) (j : Nat) (v : Word) :
    (writeLimb s i j v).regs[k].limbs.length = s.regs[k].limbs.length := by
  unfold writeLimb
  split
  · simp only [Fin.getElem_fin, Vector.getElem_set]
    split
    · rename_i hik; simp [Fin.ext hik]
    · rfl
  · rfl

theorem writeLimb_effect {s : State} (e : Event) (i : RegIdx) (j : Nat) (v : Word) (h : s.resetIn = false)
    (hb : s.busy = false) : HostEffect s e (writeLimb s i j v) := by
  have hframe : writeLimb s i j v = { s with regs := (writeLimb s i j v).regs } := by
    unfold writeLimb; split <;> rfl
  rw [hframe]
  exact .operandWrite h hb fun k => writeLimb_limbs_length s i k j v

/-- A normal write has an effect of the list, when the busy rule lets it through (R53, R54). -/
theorem writeWord_effect {s : State} {off : Nat} (v : Word) (h : s.resetIn = false)
    (hb : isOperandOffset off = true → s.busy = false) :
    HostEffect s (hostWr s.cfg off v) (writeWord s off v) := by
  obtain ⟨rfl, hw⟩ | ⟨-, hw⟩ | ⟨-, hw⟩ | ⟨rfl, hw⟩ | ⟨hlo, hhi, hw⟩ | hw := writeWord_cases s off v <;> rw [hw]
  · exact writeCtrl_effect v h
  · exact clearStatus_effect _ v h
  · exact issue_effect _ v h
  · exact .operandWrite h (hb rfl) (writeSigns_limbs s v · ▸ rfl)
  · exact writeLimb_effect _ _ _ v h (hb (decide_eq_true (.inr ⟨hlo, hhi⟩)))
  · exact .portOnly h s.ie s.cmdOvr s.accErr s.replies s.draws

theorem memWrite_effect {s t : State} {addr size : Nat} {v : Word} (h : memWrite s addr size v = .next t) :
    HostEffect s (.write addr size v) t := by
  obtain ⟨ha, ⟨hr, rfl⟩ | ⟨hr, rfl⟩⟩ := memWrite_cases h
  · exact .held hr t.replies
  have haddr : addr = s.cfg.baseAddr + (addr - s.cfg.baseAddr) := by
    simp only [inAperture, decide_eq_true_eq] at ha; omega
  unfold hostWrite
  split
  · exact .portOnly hr s.ie s.cmdOvr true s.replies s.draws
  split
  · exact .portOnly hr s.ie s.cmdOvr true s.replies s.draws
  · rename_i hnormal hidle
    have hsize : size = 4 := by simp [isNormal] at hnormal; exact hnormal.1
    have heffect := writeWord_effect (off := addr - s.cfg.baseAddr) v hr fun hop => by simpa [hop] using hidle
    rwa [hostWr, ← haddr, ← hsize] at heffect

/-- Inversion of a host access: it has one of those effects. -/
theorem takeEvent_effect {s t : State} {e : Event} {addr : Nat} (he : e.addr? = some addr)
    (h : takeEvent s e = .next t) : HostEffect s e t := by
  cases e with
  | read a size => exact memRead_effect h
  | write a size v => exact memWrite_effect h
  | engine => exact nomatch he
  | resetPin asserted => exact nomatch he

/-! ## A step -/

/-- What a step does to a state whose first input, if any, is already used up: nothing, the completion of the
command in flight (R57), a host access, or a change of the reset input (R143). -/
inductive StepEffect (s : State) : Option Event → State → Prop
  | idle (o : Option Event) : StepEffect s o s
  | completes (o : Option Event) (hb : s.busy = true) (hr : s.resetIn = false) {r : ExecResult} (h : r.Legal) :
      StepEffect s o (complete s r)
  | host {e : Event} {t : State} (h : HostEffect s e t) : StepEffect s (some e) t
  | resets {level : Bool} (h : s.resetIn ≠ level) :
      StepEffect s (some (.resetPin level)) { resetState s with resetIn := level }

theorem engineTurn_stepEffect {s t : State} (o : Option Event) (h : engineTurn s = .next t) : StepEffect s o t := by
  obtain rfl | ⟨hb, hr, r, hl, rfl⟩ := engineTurn_cases h
  · exact .idle o
  · exact .completes o hb hr hl

theorem takeEvent_stepEffect {s t : State} {e : Event} (h : takeEvent s e = .next t) : StepEffect s (some e) t := by
  cases e with
  | read addr size => exact .host (memRead_effect h)
  | write addr size v => exact .host (memWrite_effect h)
  | engine => exact engineTurn_stepEffect _ h
  | resetPin level =>
    obtain rfl := Host.Outcome.next.inj h
    unfold setResetPin
    split
    · exact .idle _
    · rename_i hne; exact .resets hne

/-- Inversion of step: the first input is used up, and the rest is one of the effects above. -/
theorem step_effect {s t : State} (h : step s = .next t) :
    StepEffect { s with inputs := s.inputs.tail } s.inputs.head? t := by
  obtain ⟨cfg, regs, ie, busy, done, fault, cmdOvr, accErr, z, n, lt, eq, gt, cmd, cause, faultCmd, resetIn,
    inputs, replies, draws⟩ := s
  cases inputs with
  | nil => exact engineTurn_stepEffect _ h
  | cons e rest => exact takeEvent_stepEffect h

/-! ## The invariant -/

/-- Out of reset the invariant's last part asks nothing. -/
theorem heldInReset_of_released {s : State} (h : s.resetIn = false) : s.HeldInReset :=
  fun hr => nomatch h.symm.trans hr

/-- A state at the reset values meets the invariant, whatever the level of the reset input. -/
theorem inv_of_resetState_eq {s : State} (hw : s.cfg.wf = true) (h : resetState s = s) : s.Inv := by
  refine ⟨hw, ?_, ?_, ?_, ?_, fun _ => h⟩ <;> rw [← h]
  · intro i; simp [zeroReg]
  · intro hb; exact nomatch hb
  · simp [State.FlagsLegal]
  · simp [State.FaultRecord]

theorem resetState_inv {s : State} (h : s.cfg.wf = true) (level : Bool) :
    ({ resetState s with resetIn := level } : State).Inv := inv_of_resetState_eq h rfl

/-- The invariant speaks of no input and no reply. -/
theorem State.Inv.with_inputs_replies {s : State} (h : s.Inv) (ins : List Event) (rs : List Reply) :
    ({ s with inputs := ins, replies := rs } : State).Inv := by
  obtain ⟨hw, hl, hh, hf, hc, hr⟩ := h
  exact ⟨hw, hl, hh, hf, hc, fun ha => congrArg (fun u : State => { u with inputs := ins, replies := rs }) (hr ha)⟩

theorem complete_inv {s : State} {r : ExecResult} (h : s.Inv) (hr : s.resetIn = false) (hl : r.Legal) :
    (complete s r).Inv := by
  obtain ⟨hw, hlimbs, -, hflags, ⟨hfault, hcause⟩, -⟩ := h
  obtain ⟨hcfg, -, -, -, -, hpin, -⟩ := complete_surroundings s r
  refine ⟨hcfg ▸ hw, complete_limbCount hlimbs r, fun hb => (nomatch (complete_busy s r).symm.trans hb),
    complete_flagsLegal hl hflags, ?_, heldInReset_of_released (hpin.trans hr)⟩
  obtain ⟨hf, hc, hw⟩ | ⟨-, hc, -⟩ := complete_faultRecord (s := s) hl
  · rw [State.FaultRecord, hf, hc, hw]; exact ⟨hfault, hcause⟩
  · exact ⟨fun _ => hc, fun hn => absurd hn hc⟩

theorem HostEffect.inv {s t : State} {e : Event} (he : HostEffect s e t) (h : s.Inv) : t.Inv := by
  cases he with
  | held _ rs => exact h.with_inputs_replies s.inputs rs
  | softReset hr => exact resetState_inv h.1 s.resetIn
  | accepted hr hb hf w =>
    obtain ⟨hw, hlimbs, -, hflags, hrec, -⟩ := h
    exact ⟨hw, hlimbs, fun _ => ⟨rfl, hf⟩, hflags, hrec, heldInReset_of_released hr⟩
  | port hr hregs _ hdone hfault =>
    obtain ⟨hw, hlimbs, hhand, hflags, ⟨hcause, hword⟩, -⟩ := h
    refine ⟨hw, fun i => (hregs i).trans (hlimbs i), fun hb => ?_, hflags, ⟨fun hf => hcause (hfault hf), hword⟩,
      heldInReset_of_released hr⟩
    obtain ⟨hd, hf⟩ := hhand hb
    exact ⟨Bool.eq_false_iff.mpr fun h => (nomatch hd.symm.trans (hdone h)),
      Bool.eq_false_iff.mpr fun h => nomatch hf.symm.trans (hfault h)⟩

theorem StepEffect.inv {s t : State} {o : Option Event} (he : StepEffect s o t) (h : s.Inv) : t.Inv := by
  cases he with
  | idle => exact h
  | completes _ _ hr hl => exact complete_inv h hr hl
  | host he => exact he.inv h
  | resets => exact resetState_inv h.1 _

/-- Settles O45: the input is used up, and each effect a step can have keeps the invariant. -/
theorem everyStepKeepsTheInvariant : Obligations.EveryStepKeepsTheInvariant := by
  unfold Obligations.EveryStepKeepsTheInvariant
  intro s t h hstep
  exact (step_effect hstep).inv (h.with_inputs_replies s.inputs.tail s.replies)

/-- Settles O44: the reset state is at the reset values. -/
theorem resetMeetsTheInvariant : Obligations.ResetMeetsTheInvariant := by
  unfold Obligations.ResetMeetsTheInvariant
  exact fun c h => inv_of_resetState_eq h rfl

/-! ## Which steps write the fault record and the result flags -/

/-- Settles O40: of the effects a step can have, only a completion and the two resets reach the fault record. -/
theorem faultRecordChangesOnlyByFaultOrReset : Obligations.FaultRecordChangesOnlyByFaultOrReset := by
  unfold Obligations.FaultRecordChangesOnlyByFaultOrReset
  intro s t hstep
  have heffect := step_effect hstep
  generalize ho : s.inputs.head? = o at heffect
  cases heffect with
  | idle => exact .inl ⟨rfl, rfl⟩
  | completes _ hb _ hl =>
    obtain ⟨-, hc, hw⟩ | ⟨hf, hc, hw⟩ := complete_faultRecord (s := { s with inputs := s.inputs.tail }) hl
    · exact .inl ⟨hc, hw⟩
    · exact .inr (.inl ⟨hb, hf, hc, hw⟩)
  | host he =>
    cases he with
    | held | accepted | port => exact .inl ⟨rfl, rfl⟩
    | softReset hr v he hv =>
      exact .inr (.inr ⟨rfl, _, _, List.eq_cons_of_mem_head? ho, .inr ⟨hr, v, he, hv⟩⟩)
  | @resets level hne =>
    exact .inr (.inr ⟨rfl, _, _, List.eq_cons_of_mem_head? ho, .inl ⟨level, rfl, hne⟩⟩)

/-- Settles O60: of the effects a host access can have, only the soft reset reaches the result flags. -/
theorem hostAccessesWriteNoResultFlag : Obligations.HostAccessesWriteNoResultFlag := by
  unfold Obligations.HostAccessesWriteNoResultFlag
  intro s t e rest addr hi he hstep
  rw [step_cons hi] at hstep
  cases takeEvent_effect he hstep with
  | held | accepted | port => exact .inl ⟨rfl, rfl, rfl, rfl, rfl⟩
  | softReset _ v he hv => exact .inr ⟨rfl, rfl, rfl, rfl, rfl, v, he, hv⟩

/-! ## Commands -/

/-- The register writes of a command's success go to its destinations (R71). -/
theorem Ends.writes_dests {i : Instr} {ws : List (RegIdx × Int)} {fl : FlagWrite} (h : Ends i (.success ws fl)) :
    ∀ p ∈ ws, p.1 ∈ destsOf i := by
  cases h with
  | writesOne rd v h => simp [h]
  | writesTwo rd rs3 q r h _ => simp [h]
  | compares a b h => simp

/-- A command that writes a register writes Z and N, and no other flag (R39). -/
theorem Ends.flags_result {i : Instr} {ws : List (RegIdx × Int)} {fl : FlagWrite} (h : Ends i (.success ws fl))
    (hd : destsOf i ≠ []) : ∃ v, fl = resultFlags v := by
  cases h with
  | writesOne rd v _ => exact ⟨v, rfl⟩
  | writesTwo rd rs3 q r _ _ => exact ⟨q, rfl⟩
  | compares a b h => exact absurd h hd

/-- Settles O35: a fault writes no register and no flag, and a success writes its destinations, Z and N. -/
theorem writingCommandsLeaveTheRest : Obligations.WritingCommandsLeaveTheRest := by
  unfold Obligations.WritingCommandsLeaveTheRest
  intro i s t hd hexec
  obtain ⟨r, hr, hends⟩ := exec_ends i s
  obtain rfl := Host.Outcome.next.inj (hr.symm.trans hexec)
  have hsurr := complete_surroundings s r
  cases r with
  | fault c => exact ⟨fun _ _ => rfl, rfl, rfl, rfl, hsurr⟩
  | success ws fl =>
    obtain ⟨v, rfl⟩ := hends.flags_result hd
    rw [complete_success] at hsurr ⊢
    refine ⟨fun k hk => applyWrites_getElem_of_notMem fun p hp hpk => hk ?_, rfl, rfl, rfl, hsurr⟩
    exact hpk ▸ hends.writes_dests p hp

theorem irq_complete (s : State) (r : ExecResult) : irq (complete s r) = s.ie := by
  obtain ⟨-, hie, -⟩ := complete_surroundings s r
  rw [irq, complete_done, hie, Bool.and_true]

/-- Settles O58: a completion sets DONE and keeps IE; the three operations clear DONE or write IE. -/
theorem irqFollowsCompletionAndEnable : Obligations.IrqFollowsCompletionAndEnable := by
  unfold Obligations.IrqFollowsCompletionAndEnable
  refine ⟨fun i s t hexec => ?_, fun s v hv => ?_, fun s w hb hf => ?_, fun s v hv => ?_⟩
  · obtain ⟨r, hr, -⟩ := exec_ends i s
    obtain rfl := Host.Outcome.next.inj (hr.symm.trans hexec)
    exact irq_complete s r
  · simp [irq, hv]
  · simp [irq, issue, hb, hf]
  · rw [writeCtrl, hv]; rfl

end Sys2Proof.Machine
end

section
/-! PROOFS. What a register reads as and holds after a write, and that every result a command writes fits its
register: O6, O7 and O37. -/

namespace Sys2Proof.Machine

/-! ## Registers -/

theorem regValue_of_positive {c : Config} {r : BigReg} (h : r.sign = false) : regValue c r = regMag c r := by
  simp [regValue, h]

/-- A negative zero reads as 0 too (R22). -/
theorem regValue_of_negative {c : Config} {r : BigReg} (h : r.sign = true) : regValue c r = -(regMag c r : Int) := by
  by_cases hm : regMag c r = 0 <;> simp [regValue, h, hm]

/-- A value that fits reads back from its register (R22, R23). -/
theorem regValue_regOf {c : Config} {v : Int} (h : v.natAbs < capacity c) : regValue c (regOf c v) = v := by
  have hmag := regMag_regOf h
  by_cases hv : v < 0
  · rw [regValue_of_negative (decide_eq_true hv), hmag]; omega
  · rw [regValue_of_positive (decide_eq_false hv), hmag]; omega

theorem readReg_writeReg_same {s : State} {i : RegIdx} {v : Int} (h : v.natAbs < capacity s.cfg) :
    readReg (writeReg s i v) i = v := by
  rw [readReg, writeReg_getElem, if_pos rfl, writeReg_cfg, regValue_regOf h]

/-- limb(v, j) (R8). -/
theorem limbsOf_getD {m j : Nat} (v : Nat) (h : j < m) :
    ((limbsOf m v).getD j 0#32).toNat = v / 2 ^ (32 * j) % 2 ^ 32 := by
  induction m generalizing v j with
  | zero => exact absurd h (Nat.not_lt_zero j)
  | succ m ih =>
    cases j with
    | zero => simp [limbsOf]
    | succ j =>
      rw [limbsOf, List.getD_cons_succ, ih _ (Nat.lt_of_succ_lt_succ h), Nat.div_div_eq_div_mul, ← pow_add,
        Nat.mul_succ, Nat.add_comm]

/-- Settles O6: by the sign bit, and by the range every operand has. -/
theorem registerReadsAsSignedMagnitudeInRange : Obligations.RegisterReadsAsSignedMagnitudeInRange := by
  unfold Obligations.RegisterReadsAsSignedMagnitudeInRange
  intro s i
  have hrange := natAbs_readReg_lt s i
  exact ⟨regValue_of_positive, regValue_of_negative, by omega, by omega⟩

/-- Settles O7: the register written is the one that holds v; the others stay. -/
theorem writtenRegisterHoldsItsValue : Obligations.WrittenRegisterHoldsItsValue := by
  unfold Obligations.WrittenRegisterHoldsItsValue
  intro s i v h
  have hreg : (writeReg s i v).regs[i] = regOf s.cfg v := by rw [writeReg_getElem, if_pos rfl]
  rw [hreg]
  exact ⟨limbsOf_length _ _, fun j hj => limbsOf_getD _ hj, decide_eq_true_iff, readReg_writeReg_same h,
    fun k hk => by rw [writeReg_getElem, if_neg hk]⟩

/-! ## Results fit their register -/

theorem carryChain_length_le (as bs : List Word) (c : Bool) : (carryChain as bs c).1.length ≤ as.length := by
  induction as generalizing bs c with
  | nil => simp [carryChain]
  | cons a as ih =>
    cases bs with
    | nil => simp [carryChain]
    | cons b bs => exact Nat.succ_le_succ (ih bs _)

theorem borrowChain_length_le (as bs : List Word) (bw : Bool) : (borrowChain as bs bw).1.length ≤ as.length := by
  induction as generalizing bs bw with
  | nil => simp [borrowChain]
  | cons a as ih =>
    cases bs with
    | nil => simp [borrowChain]
    | cons b bs => exact Nat.succ_le_succ (ih bs _)

theorem limbsValue_lt_capacity {c : Config} {ls : List Word} (h : ls.length ≤ c.maxLimbs) :
    limbsValue ls < capacity c :=
  lt_of_lt_of_le (limbsValue_lt ls) (Nat.pow_le_pow_right (by norm_num) (by omega))

/-- A sum of the carry chain, its carry out apart, fits M limbs. -/
theorem carryChain_lt_capacity (c : Config) (a : Int) (bs : List Word) (cin : Bool) :
    limbsValue (carryChain (magLimbs c a) bs cin).1 < capacity c :=
  limbsValue_lt_capacity ((carryChain_length_le _ bs cin).trans_eq (magLimbs_length c a))

theorem borrowChain_lt_capacity (c : Config) (a : Int) (bs : List Word) (bw : Bool) :
    limbsValue (borrowChain (magLimbs c a) bs bw).1 < capacity c :=
  limbsValue_lt_capacity ((borrowChain_length_le _ bs bw).trans_eq (magLimbs_length c a))

/-- A computed value, if there is one, fits a register (R25). -/
def FitsRegister (c : Config) (x : Except Cause Int) : Prop := ∀ v, x = .ok v → v.natAbs < capacity c

theorem fitsRegister_ok {c : Config} {v : Int} (h : v.natAbs < capacity c) : FitsRegister c (.ok v) := by
  rintro _ ⟨⟩; exact h

theorem fitsRegister_error (c : Config) (e : Cause) : FitsRegister c (.error e) := nofun

theorem signedAdd_fits (c : Config) (a b : Int) : FitsRegister c (signedAdd c a b) := by
  unfold signedAdd; dsimp only
  split
  · split
    · exact fitsRegister_error c _
    · exact fitsRegister_ok (by rw [natAbs_withSign]; exact carryChain_lt_capacity c a _ _)
  split
  · exact fitsRegister_ok (by rw [natAbs_withSign]; exact borrowChain_lt_capacity c a _ _)
  · exact fitsRegister_ok (by rw [natAbs_withSign]; exact borrowChain_lt_capacity c b _ _)

theorem unsignedAdd_fits (c : Config) (a b : Int) : FitsRegister c (unsignedAdd c a b) := by
  unfold unsignedAdd; dsimp only
  split
  · exact fitsRegister_error c _
  · exact fitsRegister_ok (carryChain_lt_capacity c a _ _)

theorem unsignedSub_fits (c : Config) (a b : Int) : FitsRegister c (unsignedSub c a b) := by
  unfold unsignedSub
  split
  · exact fitsRegister_error c _
  · exact fitsRegister_ok (borrowChain_lt_capacity c a _ _)

theorem capacityChecked_fits (c : Config) (v : Int) : FitsRegister c (capacityChecked c v) := by
  obtain ⟨hx, h⟩ | ⟨hx, -⟩ := capacityChecked_cases c v <;> rw [hx]
  · exact fitsRegister_ok h
  · exact fitsRegister_error c _

theorem shlValue_fits (c : Config) (a k : Int) : FitsRegister c (shlValue c a k) := by
  unfold shlValue
  split
  · exact fitsRegister_error c _
  obtain ⟨hx, h⟩ | ⟨hx, -⟩ := shlMag_cases c a.natAbs k.natAbs <;> rw [hx]
  · exact fitsRegister_ok (by rwa [natAbs_withSign])
  · exact fitsRegister_error c _

theorem shrMag_le (c : Config) (m k : Nat) : shrMag c m k ≤ m := by
  unfold shrMag
  split
  · exact Nat.zero_le m
  · exact Nat.div_le_self m _

theorem shrValue_fits {c : Config} {a : Int} (k : Int) (h : a.natAbs < capacity c) :
    FitsRegister c (shrValue c a k) := by
  unfold shrValue
  split
  · exact fitsRegister_error c _
  · exact fitsRegister_ok (by rw [natAbs_withSign]; exact (shrMag_le c _ _).trans_lt h)

theorem bitValue_fits {c : Config} (hw : c.wf = true) (a k : Int) : FitsRegister c (bitValue c a k) := by
  have hcap := two_pow_32_le_capacity hw
  unfold bitValue
  split
  · exact fitsRegister_error c _
  · exact fitsRegister_ok (by omega)

theorem montmulValue_fits (c : Config) (a b n : Int) : FitsRegister c (montmulValue c a b n) := by
  unfold montmulValue
  iterate 5
    split
    · exact fitsRegister_error c _
  exact capacityChecked_fits c _

theorem modExpFrom_lt {a e n : Nat} (k : Nat) {acc : Nat} (h : acc < n) : modExpFrom a e n k acc < n := by
  induction k generalizing acc with
  | zero => exact h
  | succ k ih =>
    have hn : 0 < n := Nat.zero_lt_of_lt h
    refine ih ?_
    split <;> exact Nat.mod_lt _ hn

/-- A residue is below its modulus (R114). -/
theorem modExp_lt (a e : Nat) {n : Nat} (h : 0 < n) : modExp a e n < n := modExpFrom_lt _ (Nat.mod_lt 1 h)

theorem modexpValue_fits {c : Config} (a e : Int) {n : Int} (h : n.natAbs < capacity c) :
    FitsRegister c (modexpValue a e n) := by
  unfold modexpValue
  iterate 4
    split
    · exact fitsRegister_error c _
  rename_i hn
  exact fitsRegister_ok ((modExp_lt _ _ (Int.natAbs_pos.mpr hn)).trans h)

theorem bitlen_le_self (a : Nat) : bitlen a ≤ a := by
  unfold bitlen
  split
  · exact Nat.zero_le a
  · exact (Nat.log2_lt (by assumption)).mpr Nat.lt_two_pow_self

/-! ## Result flags -/

/-- A fault, or a success that writes `rd` first and only once, with a value that fits and Z and N from it. -/
inductive Delivers (c : Config) (rd : RegIdx) : ExecResult → Prop
  | fault (e : Cause) : Delivers c rd (.fault e)
  | writes {v : Int} (hv : v.natAbs < capacity c) {ws : List (RegIdx × Int)} (hws : ∀ p ∈ ws, p.1 ≠ rd) :
      Delivers c rd (.success ((rd, v) :: ws) (resultFlags v))

theorem delivers_writesResult {c : Config} (rd : RegIdx) {v : Int} (h : v.natAbs < capacity c) :
    Delivers c rd (writesResult rd v) := .writes h (List.forall_mem_nil _)

theorem delivers_resultOf {c : Config} (rd : RegIdx) {x : Except Cause Int} (h : FitsRegister c x) :
    Delivers c rd (resultOf rd x) := by
  cases x with
  | ok v => exact delivers_writesResult rd (h v rfl)
  | error e => exact .fault e

theorem divmodResult_delivers {c : Config} (rd rs3 : RegIdx) {a : Int} (b : Int) (h : a.natAbs < capacity c) :
    Delivers c rd (divmodResult rd rs3 a b) := by
  unfold divmodResult
  split; · exact .fault _
  rename_i hne
  iterate 3
    split
    · exact .fault _
  exact .writes ((Nat.div_le_self _ _).trans_lt h) (List.forall_mem_singleton.mpr (Ne.symm hne))

/-- Every command with a destination delivers to it: exec finishes so, whatever its operands. -/
theorem exec_delivers {i : Instr} {rd : RegIdx} {s : State} (hw : s.cfg.wf = true)
    (hd : (destsOf i).head? = some rd) : ∃ r, exec i s = finish s r ∧ Delivers s.cfg rd r := by
  cases i <;> cases hd
  case add a b => exact ⟨_, rfl, delivers_resultOf rd (signedAdd_fits _ _ _)⟩
  case sub a b => exact ⟨_, rfl, delivers_resultOf rd (signedAdd_fits _ _ _)⟩
  case addu a b => exact ⟨_, rfl, delivers_resultOf rd (unsignedAdd_fits _ _ _)⟩
  case subu a b => exact ⟨_, rfl, delivers_resultOf rd (unsignedSub_fits _ _ _)⟩
  case mul a b => exact ⟨_, rfl, delivers_resultOf rd (capacityChecked_fits _ _)⟩
  case divmod a b r => exact ⟨_, rfl, divmodResult_delivers rd r _ (natAbs_readReg_lt s a)⟩
  case shl a k => exact ⟨_, rfl, delivers_resultOf rd (shlValue_fits _ _ _)⟩
  case shr a k => exact ⟨_, rfl, delivers_resultOf rd (shrValue_fits _ (natAbs_readReg_lt s a))⟩
  case bitlen a =>
    exact ⟨_, rfl, delivers_writesResult rd ((bitlen_le_self _).trans_lt (natAbs_readReg_lt s a))⟩
  case bit a k => exact ⟨_, rfl, delivers_resultOf rd (bitValue_fits hw _ _)⟩
  case mov a => exact ⟨_, rfl, delivers_writesResult rd (natAbs_readReg_lt s a)⟩
  case neg a => exact ⟨_, rfl, delivers_writesResult rd (by rw [Int.natAbs_neg]; exact natAbs_readReg_lt s a)⟩
  case inc => exact ⟨_, rfl, delivers_resultOf rd (signedAdd_fits _ _ _)⟩
  case dec => exact ⟨_, rfl, delivers_resultOf rd (signedAdd_fits _ _ _)⟩
  case ldw imm =>
    have hcap := two_pow_32_le_capacity hw
    exact ⟨_, rfl, delivers_writesResult rd (by omega)⟩
  case montmul a b n => exact ⟨_, rfl, delivers_resultOf rd (montmulValue_fits _ _ _ _)⟩
  case modexp a e n => exact ⟨_, rfl, delivers_resultOf rd (modexpValue_fits _ _ (natAbs_readReg_lt s n))⟩

/-- What a delivered value leaves in its register (R23, R57). -/
theorem readReg_complete_delivered {s : State} {rd : RegIdx} {v : Int} {ws : List (RegIdx × Int)}
    (fl : FlagWrite) (hv : v.natAbs < capacity s.cfg) (hws : ∀ p ∈ ws, p.1 ≠ rd) :
    readReg (complete s (.success ((rd, v) :: ws) fl)) rd = v := by
  obtain ⟨hcfg, -⟩ := complete_surroundings s (.success ((rd, v) :: ws) fl)
  have hreg : (complete s (.success ((rd, v) :: ws) fl)).regs[rd] = regOf s.cfg v := by
    rw [complete_success]
    exact (applyWrites_getElem_of_notMem hws).trans (by rw [writeReg_getElem, if_pos rfl])
  rw [readReg, hreg, hcfg, regValue_regOf hv]

/-- Settles O37: the flags are those of the value delivered, and rd reads as that value. -/
theorem resultFlagsDescribeTheDestination : Obligations.ResultFlagsDescribeTheDestination := by
  unfold Obligations.ResultFlagsDescribeTheDestination
  intro i rd s t hw hd _ hexec hfault
  obtain ⟨r, hr, hdel⟩ := exec_delivers hw hd
  obtain rfl := Host.Outcome.next.inj (hr.symm.trans hexec)
  cases hdel with
  | fault e => exact nomatch hfault
  | writes hv hws =>
    rw [readReg_complete_delivered _ hv hws, complete_success]
    exact ⟨rfl, rfl⟩

end Sys2Proof.Machine
end

section
/-! PROOFS. The words of the host port, and a host's writes with no command in the way: O46, O47, O50, O53 and
O57. -/

namespace Sys2Proof.Machine

/-! ## Words -/

/-- Fields side by side are the sum of the numbers they hold at their places. -/
theorem toNat_append_eq_add {m n : Nat} (x : BitVec m) (y : BitVec n) :
    (x ++ y).toNat = x.toNat * 2 ^ n + y.toNat := by
  rw [BitVec.toNat_append, ← Nat.shiftLeft_add_eq_or_of_lt y.isLt, Nat.shiftLeft_eq]

/-- CONFIG is the number its fields make (R31). -/
theorem configWord_eq (c : Config) :
    configWord c = BitVec.ofNat 32 (c.maxLimbs * 2 ^ 16 + 16 * 2 ^ 8 + 32) := by
  apply BitVec.eq_of_toNat_eq
  simp only [configWord, toNat_append_eq_add, BitVec.toNat_ofNat]
  omega

/-- Bit k of SIGNS is the k-th sign of the register file (R38). -/
theorem signsWord_getLsbD (s : State) (k : Nat) :
    (signsWord s).getLsbD k = (decide (k < 32) && (s.regs.toList.map BigReg.sign).getD k false) := by
  rw [signsWord, BitVec.getLsbD_ofNat, testBit_bitsValue]

theorem signsWord_getLsbD_reg (s : State) (i : RegIdx) : (signsWord s).getLsbD i.val = s.regs[i].sign := by
  have hi : i.val < 32 := by omega
  rw [signsWord_getLsbD, decide_eq_true hi, Bool.true_and]
  simp

theorem signsWord_getLsbD_high (s : State) {k : Nat} (h : 16 ≤ k) : (signsWord s).getLsbD k = false := by
  rw [signsWord_getLsbD, List.getD_eq_default _ _ (by simpa using h), Bool.and_false]

theorem writeSigns_sign (s : State) (v : Word) (i : RegIdx) : (writeSigns s v).regs[i].sign = v.getLsbD i.val := by
  simp [writeSigns]

/-- Settles O47: the bits read off the word's fields, from bit 0 up. -/
theorem statusWordHasTheListedBits : Obligations.StatusWordHasTheListedBits := by
  unfold Obligations.StatusWordHasTheListedBits
  intro s
  have hread : readWord s 0x00C = statusWord s := rfl
  rw [hread]
  simp only [statusWord, BitVec.getLsbD_append]
  refine ⟨?_, ?_, ?_, ?_, ?_, ?_, ?_, ?_, ?_, ?_, fun k hk => ?_⟩
  case refine_11 =>
    obtain hk | hk := hk
    · fin_cases hk <;> simp
    · obtain ⟨j, rfl⟩ := Nat.exists_eq_add_of_le' hk
      simp
  all_goals simp

/-! ## Reset -/

theorem regValue_zeroReg (c : Config) : regValue c (zeroReg c) = 0 := by
  rw [regValue_of_positive rfl]
  simp [regMag, zeroReg, limbsValue_replicate_zero]

/-- Settles O46: each word of the port evaluated at the reset values, which hold for any M. -/
theorem resetLeavesTheListedValues : Obligations.ResetLeavesTheListedValues := by
  unfold Obligations.ResetLeavesTheListedValues
  intro c _
  have hreg (i : RegIdx) : (State.resetFor c).regs[i] = zeroReg c := by simp
  have hctrl : readWord (State.resetFor c) 0x008 = 0#32 := by simp [readWord]
  have hstatus : readWord (State.resetFor c) 0x00C = 0#32 := by simp [readWord, statusWord]
  have hcause : readWord (State.resetFor c) 0x014 = 0#32 := by simp [readWord, causeCode]
  have hsigns : signsWord (State.resetFor c) = 0#32 := by
    simp [signsWord, zeroReg, bitsValue]
  refine ⟨fun i => ?_, rfl, configWord_eq c, hctrl, hstatus, rfl, hcause, rfl, hsigns, rfl, rfl, rfl⟩
  rw [readReg, hreg]
  exact ⟨rfl, rfl, regValue_zeroReg c⟩

/-! ## Writes -/

/-- The step that takes a normal write the busy rule does not cover is the write of its register. -/
theorem step_hostWr {s : State} {off : Nat} {v : Word} {rest : List Event}
    (hi : s.inputs = hostWr s.cfg off v :: rest) (hr : s.resetIn = false) (h : off < 0x8000) (ha : off % 4 = 0)
    (hb : isOperandOffset off = false ∨ s.busy = false) :
    step s = .next (writeWord { s with inputs := rest } off v) := by
  rw [step_write hi hr h, hostWrite_normal (s := { s with inputs := rest }) v ha hb]

/-- Settles O53: STATUS is outside the busy rule, and its write is `clearStatus`. -/
theorem statusWriteClearsBitsWrittenOne : Obligations.StatusWriteClearsBitsWrittenOne := by
  unfold Obligations.StatusWriteClearsBitsWrittenOne
  intro s v rest hi hr
  exact step_hostWr hi hr (by decide) (by decide) (.inl (by decide))

/-- Settles O50: bits of the sign list, the sign bits `writeSigns` stores, and the step that takes the write. -/
theorem signsRegisterHoldsTheSignBits : Obligations.SignsRegisterHoldsTheSignBits := by
  unfold Obligations.SignsRegisterHoldsTheSignBits
  intro s v
  have hwrite (s : State) (i : RegIdx) : (writeSigns s v).regs[i].sign = v.getLsbD i.val ∧
      (writeSigns s v).regs[i].limbs = s.regs[i].limbs := ⟨writeSigns_sign s v i, writeSigns_limbs s v i⟩
  exact ⟨signsWord_getLsbD_reg s, fun k => signsWord_getLsbD_high s, hwrite s, fun rest hi hr hb =>
    ⟨_, step_hostWr hi hr (by decide) (by decide) (.inr hb), hwrite { s with inputs := rest }⟩⟩

/-- A reserved offset, the place of no register, reads 0 (R29). -/
theorem readWord_reserved {s : State} {off : Nat}
    (h : (0x020 ≤ off ∧ off < 0x1000) ∨ (0x5000 ≤ off ∧ off < 0x8000)) : readWord s off = 0#32 := by
  unfold readWord
  iterate 9 rw [if_neg (by omega)]

/-- A write outside the writable registers and the window leaves the state (R29, R52). -/
theorem writeWord_ignored {s : State} {off : Nat} (v : Word)
    (h : off ∉ [0x008, 0x00C, 0x010, 0x01C]) (hw : ¬(0x1000 ≤ off ∧ off < 0x5000)) : writeWord s off v = s := by
  simp only [List.mem_cons, List.not_mem_nil, or_false, not_or] at h
  obtain ⟨hctrl, hstatus, hcmd, hsigns⟩ := h
  rw [writeWord, if_neg hctrl, if_neg hstatus, if_neg hcmd, if_neg hsigns, if_neg hw]

/-- Settles O57: none of these offsets is writable, nor one of the busy rule's. -/
theorem readOnlyAndReservedOffsetsIgnoreWrites : Obligations.ReadOnlyAndReservedOffsetsIgnoreWrites := by
  unfold Obligations.ReadOnlyAndReservedOffsetsIgnoreWrites
  refine ⟨fun s off v rest hr ha hoff hi => ?_, fun s off h => readWord_reserved h⟩
  simp only [List.mem_cons, List.not_mem_nil, or_false] at hoff
  have hop : isOperandOffset off = false := decide_eq_false (by omega)
  rw [step_hostWr hi hr (by omega) ha (.inl hop), writeWord_ignored v (by simp; omega) (by omega)]

end Sys2Proof.Machine
end

section
/-! PROOFS. What one host access and one engine turn do to the state: the memory family, O41, O48, O49, O51, O52,
O54 and O59. -/

namespace Sys2Proof.Machine

/-! ## The engine's turn -/

/-- The word in flight, once decoded, is executed (R72). -/
theorem runCommand_decoded {s : State} {i : Instr} (h : decode s.cmd = .ok i) : runCommand s = exec i s := by
  rw [runCommand, h]

theorem engineTurn_decoded {s : State} {i : Instr} (hb : s.busy = true) (hr : s.resetIn = false)
    (h : decode s.cmd = .ok i) : engineTurn s = exec i s := by
  rw [engineTurn_busy hb hr, runCommand_decoded h]

/-- With nothing in flight the engine's turn changes nothing (R14). -/
theorem engineTurn_notBusy {s : State} (hb : s.busy = false) : engineTurn s = .next s :=
  engineTurn_idle fun h => nomatch hb.symm.trans h.1

/-- A whole word is placed as it is. -/
theorem withFetchWord_word (s : State) (w : Word) : s.withFetchWord 32 w.toNat = placeCommand s w := by
  rw [State.withFetchWord, Nat.mod_eq_of_lt w.isLt, BitVec.ofNat_toNat, BitVec.setWidth_eq]

/-- The very next step runs a placed word (R57). -/
theorem step_placeCommand (s : State) (w : Word) :
    step (placeCommand s w) =
      runCommand { s with cmd := w, busy := true, done := false, fault := false, resetIn := false } := rfl

/-- Settles O41: the turn, listed or with no input left, is `engineTurn`, which runs the decoded word or is idle. -/
theorem engineStepRunsDecodedCommand : Obligations.EngineStepRunsDecodedCommand := by
  unfold Obligations.EngineStepRunsDecodedCommand
  intro s i rest
  refine ⟨fun hb hr hd hi => ?_, fun hb hr hd hi => ?_, fun w hd => ?_, fun hb hi => ?_, fun hb hi => ?_⟩
  · exact (step_cons hi).trans (engineTurn_decoded hb hr hd)
  · exact (step_nil hi).trans (engineTurn_decoded hb hr hd)
  · rw [withFetchWord_word, step_placeCommand, runCommand_decoded hd]
  · exact (step_cons hi).trans (engineTurn_notBusy hb)
  · exact (step_nil hi).trans (engineTurn_notBusy hb)

/-! ## Accesses that set ACC_ERR -/

theorem isNormal_of_abnormal {off size : Nat} (h : size ≠ 4 ∨ off % 4 ≠ 0) : isNormal off size = false :=
  decide_eq_false fun hn => h.elim (· hn.1) (· hn.2)

/-- A read of another size or alignment gives 0 and sets ACC_ERR (R51). -/
theorem hostRead_abnormal (s : State) {off size : Nat} (h : size ≠ 4 ∨ off % 4 ≠ 0) :
    hostRead s off size = (0#32, accessError s) := if_pos (isNormal_of_abnormal h)

/-- A write of another size or alignment only sets ACC_ERR (R51). -/
theorem hostWrite_abnormal (s : State) {off size : Nat} (v : Word) (h : size ≠ 4 ∨ off % 4 ≠ 0) :
    hostWrite s off size v = accessError s := if_pos (isNormal_of_abnormal h)

/-- Settles O52: a host access out of reset is HostRead or HostWrite, which R51 answers first. -/
theorem abnormalAccessesSetAccErr : Obligations.AbnormalAccessesSetAccErr := by
  unfold Obligations.AbnormalAccessesSetAccErr
  intro s off size v rest hr hoff habnormal
  refine ⟨fun hi => ?_, fun hi => ?_⟩
  · rw [step_read hi hr hoff, hostRead_abnormal _ habnormal]
    rfl
  · rw [step_write hi hr hoff, hostWrite_abnormal _ v habnormal]
    rfl

/-- An operand read while busy gives the next draw and sets ACC_ERR (R53). -/
theorem hostRead_blocked {s : State} {off : Nat} (ha : off % 4 = 0) (ho : isOperandOffset off = true)
    (hb : s.busy = true) :
    hostRead s off 4 = (Config.draw s.draws, { accessError s with draws := s.draws + 1 }) := by
  simp [hostRead, isNormal, ha, ho, hb]

/-- An operand write while busy only sets ACC_ERR (R53). -/
theorem hostWrite_blocked {s : State} {off : Nat} (v : Word) (ha : off % 4 = 0) (ho : isOperandOffset off = true)
    (hb : s.busy = true) : hostWrite s off 4 v = accessError s := by
  simp [hostWrite, isNormal, ha, ho, hb]

/-- Settles O51: R53's offsets are those HostRead and HostWrite block, and the word read is the draw. -/
theorem busyRuleBlocksOperandAccesses : Obligations.BusyRuleBlocksOperandAccesses := by
  unfold Obligations.BusyRuleBlocksOperandAccesses
  intro s off v rest hb hr ha hoff
  have ho : isOperandOffset off = true := (isOperandOffset_iff ha).mpr hoff
  have hlt : off < 0x8000 := by omega
  refine ⟨fun hi => ⟨Config.draw s.draws, ?_⟩, fun hi => ?_⟩
  · rw [step_read hi hr hlt, hostRead_blocked (s := { s with inputs := rest }) ha ho hb]
    rfl
  · rw [step_write hi hr hlt, hostWrite_blocked (s := { s with inputs := rest }) v ha ho hb]
    rfl

/-! ## Reads -/

/-- The word of an offset does not depend on the inputs still to come. -/
@[simp] theorem readWord_with_inputs (s : State) (ins : List Event) (off : Nat) :
    readWord { s with inputs := ins } off = readWord s off := rfl

/-- The step that takes a normal read the busy rule does not cover is the reply with its register's word. -/
theorem step_hostRd {s : State} {off : Nat} {rest : List Event} (hi : s.inputs = hostRd s.cfg off :: rest)
    (hr : s.resetIn = false) (h : off < 0x8000) (ha : off % 4 = 0)
    (hb : isOperandOffset off = false ∨ s.busy = false) :
    step s = .next (reply { s with inputs := rest } (s.cfg.baseAddr + off) 4 (readWord s off)) := by
  rw [step_read hi hr h, hostRead_normal (s := { s with inputs := rest }) ha hb, readWord_with_inputs]

/-- CTRL reads as its IE bit (R32). -/
theorem readWord_ctrl (s : State) : readWord s 0x008 = if s.ie = true then 1#32 else 0#32 := by
  change 0#31 ++ BitVec.ofBool s.ie = _
  cases s.ie <;> rfl

/-- CAUSE reads as the code of the cause held (R36, R119). -/
theorem readWord_of_cause {s : State} {c : Cause} (h : s.cause = c) : readWord s 0x014 = 0#24 ++ causeCode c :=
  h ▸ rfl

/-- Settles O48: an offset R53 does not name is outside the busy rule, so the read is a reply; then the words,
register by register. -/
theorem normalReadsHaveNoSideEffect : Obligations.NormalReadsHaveNoSideEffect := by
  unfold Obligations.NormalReadsHaveNoSideEffect
  refine ⟨fun s off rest hi hr hlt ha hfree => ?_, fun s => ?_⟩
  · have hb : isOperandOffset off = false ∨ s.busy = false := hfree.imp_left fun ⟨hsigns, hwindow⟩ =>
      Bool.eq_false_iff.mpr fun ho => ((isOperandOffset_iff ha).mp ho).elim hsigns hwindow
    exact step_hostRd hi hr hlt ha hb
  · exact ⟨rfl, configWord_eq s.cfg, readWord_ctrl s, rfl, readWord_of_cause, readWord_of_cause,
      readWord_of_cause, readWord_of_cause, readWord_of_cause, readWord_of_cause, readWord_of_cause, rfl⟩

/-! ## The limb window -/

/-- A window offset reads the limb it names (R47, R54). -/
theorem readWord_limbOffset (s : State) (i : RegIdx) {j : Nat} (h : j ≤ 255) :
    readWord s (limbOffset i j) = readLimb s i j := by
  obtain ⟨hreg, hlimb, hlo, hhi, -⟩ := limbOffset_decodes i h
  unfold readWord
  iterate 8 rw [if_neg (by omega)]
  rw [if_pos ⟨hlo, hhi⟩, hreg, hlimb]

/-- A write to a window offset writes the limb it names (R47, R54). -/
theorem writeWord_limbOffset (s : State) (i : RegIdx) {j : Nat} (v : Word) (h : j ≤ 255) :
    writeWord s (limbOffset i j) v = writeLimb s i j v := by
  obtain ⟨hreg, hlimb, hlo, hhi, -⟩ := limbOffset_decodes i h
  unfold writeWord
  iterate 4 rw [if_neg (by omega)]
  rw [if_pos ⟨hlo, hhi⟩, hreg, hlimb]

/-- The step that takes a host's write of a window offset with BUSY = 0 is the limb write. -/
theorem step_hostWr_limb {s : State} {i : RegIdx} {j : Nat} {v : Word} {rest : List Event} (h : j ≤ 255)
    (hi : s.inputs = hostWr s.cfg (limbOffset i j) v :: rest) (hr : s.resetIn = false) (hb : s.busy = false) :
    step s = .next (writeLimb { s with inputs := rest } i j v) := by
  obtain ⟨-, -, -, hhi, ha⟩ := limbOffset_decodes i h
  rw [step_hostWr hi hr (by omega) ha (.inr hb), writeWord_limbOffset _ i v h]

theorem readLimb_below (s : State) (i : RegIdx) {j : Nat} (h : j < s.cfg.maxLimbs) :
    readLimb s i j = s.regs[i].limbs.getD j 0#32 := if_pos h

/-- A limb at or above M reads 0 (R47). -/
theorem readLimb_above (s : State) (i : RegIdx) {j : Nat} (h : s.cfg.maxLimbs ≤ j) : readLimb s i j = 0#32 :=
  if_neg (by omega)

theorem writeLimb_below (s : State) (i : RegIdx) {j : Nat} (v : Word) (h : j < s.cfg.maxLimbs) :
    writeLimb s i j v =
      { s with regs := s.regs.set i { s.regs[i] with limbs := s.regs[i].limbs.set j v } } := if_pos h

/-- A write to a limb at or above M is ignored (R47). -/
theorem writeLimb_above (s : State) (i : RegIdx) {j : Nat} (v : Word) (h : s.cfg.maxLimbs ≤ j) :
    writeLimb s i j v = s := if_neg (by omega)

@[simp] theorem writeLimb_cfg (s : State) (i : RegIdx) (j : Nat) (v : Word) :
    (writeLimb s i j v).cfg = s.cfg := by
  unfold writeLimb
  split <;> rfl

/-- A limb reads back as written, and every other limb as before. -/
theorem readLimb_writeLimb {s : State} (hlimbs : s.LimbCount) (i i' : RegIdx) {j : Nat} (j' : Nat) (v : Word)
    (h : j < s.cfg.maxLimbs) :
    readLimb (writeLimb s i j v) i' j' = if i' = i ∧ j' = j then v else readLimb s i' j' := by
  by_cases h' : j' < s.cfg.maxLimbs
  case neg =>
    have hne : ¬(i' = i ∧ j' = j) := by omega
    rw [if_neg hne, readLimb_above _ _ (by simpa using h'), readLimb_above _ _ (by omega)]
  rw [readLimb_below _ _ (by simpa using h'), readLimb_below _ _ h', writeLimb_below _ _ _ h]
  by_cases hi : i' = i
  · subst hi
    have hj : j < s.regs[i'.val].limbs.length := hlimbs i' ▸ h
    by_cases hjj : j' = j
    · subst hjj
      simp [List.getElem?_set_self hj]
    · simp [hjj, List.getElem?_set_ne (Ne.symm hjj)]
  · have hne : i.val ≠ i'.val := fun heq => hi (Fin.ext heq.symm)
    simp [hi, hne]

/-- Settles O49: the window offset names limb j of b_i, and the limb operations do the rest. -/
theorem limbWindowReachesItsLimb : Obligations.LimbWindowReachesItsLimb := by
  unfold Obligations.LimbWindowReachesItsLimb
  intro s i j v hinv hj
  obtain ⟨-, hlimbs, -⟩ := hinv
  rw [readWord_limbOffset s i hj, writeWord_limbOffset s i v hj]
  refine ⟨readLimb_below s i, fun h => ⟨readLimb_above s i h, writeLimb_above s i v h⟩,
    fun h i' j' hj' => ?_, fun rest hi hr hb => ⟨fun h => ?_, fun h => ?_⟩⟩
  · rw [readWord_limbOffset _ i' hj', readWord_limbOffset s i' hj']
    exact readLimb_writeLimb hlimbs i i' j' v h
  · rw [step_hostWr_limb hj hi hr hb, writeLimb_below { s with inputs := rest } i v h]
  · rw [step_hostWr_limb hj hi hr hb, writeLimb_above { s with inputs := rest } i v h]

/-! ## The command register -/

theorem issue_accepted {s : State} (w : Word) (hb : s.busy = false) (hf : s.fault = false) :
    issue s w = { s with cmd := w, busy := true, done := false } := if_pos ⟨hb, hf⟩

theorem issue_dropped {s : State} (w : Word) (h : s.busy = true ∨ s.fault = true) :
    issue s w = { s with cmdOvr := true } :=
  if_neg fun ⟨hb, hf⟩ => h.elim (nomatch hb.symm.trans ·) (nomatch hf.symm.trans ·)

/-- Settles O54: CMD is outside the busy rule, and its write is `issue`. -/
theorem commandWriteIsAcceptedOrDropped : Obligations.CommandWriteIsAcceptedOrDropped := by
  unfold Obligations.CommandWriteIsAcceptedOrDropped
  intro s w rest hi hr
  have hstep : step s = .next (issue { s with inputs := rest } w) :=
    step_hostWr hi hr (by decide) (by decide) (.inl (by decide))
  refine ⟨fun hb hf => ?_, fun h => ?_⟩
  · rw [hstep, issue_accepted (s := { s with inputs := rest }) w hb hf]
  · rw [hstep, issue_dropped (s := { s with inputs := rest }) w h]

/-! ## A command in flight -/

/-- A reset gives the reset state of the same device, but for the world around it (R44, R144). -/
theorem resetState_eq_resetFor (s : State) :
    resetState s = { State.resetFor s.cfg with
      resetIn := s.resetIn, inputs := s.inputs, replies := s.replies, draws := s.draws } := rfl

/-- Settles O59: of the effects a host access can have with BUSY = 1, only the soft reset reaches the registers,
CMD or BUSY. -/
theorem hostCannotTouchCommandInFlight : Obligations.HostCannotTouchCommandInFlight := by
  unfold Obligations.HostCannotTouchCommandInFlight
  intro s t e rest addr hb hr hi he hstep
  rw [step_cons hi] at hstep
  cases takeEvent_effect he hstep with
  | held hheld => exact nomatch hr.symm.trans hheld
  | softReset _ v he hv => exact .inr ⟨v, he, hv, by rw [resetState_eq_resetFor, hr]; rfl⟩
  | accepted _ hidle => exact nomatch hb.symm.trans hidle
  | port _ _ hregs => exact .inl ⟨hregs hb, rfl, hb⟩

end Sys2Proof.Machine
end

section
/-! PROOFS. The decoder and the encoder agree, and which words the decoder refuses: the encoding family, O1 to
O5. -/

namespace Sys2Proof

/-! ## The encoder's sum -/

/-- A field above a word's bits adds to it: the or is a sum. -/
theorem toNat_or_shiftLeft {w x : Word} {lo : Nat} (hw : w.toNat < 2 ^ lo) (hx : x.toNat * 2 ^ lo < 2 ^ 32) :
    (w ||| x <<< lo).toNat = w.toNat + x.toNat * 2 ^ lo := by
  rw [BitVec.toNat_or, BitVec.toNat_shiftLeft, Nat.shiftLeft_eq, Nat.mod_eq_of_lt hx, ← Nat.shiftLeft_eq,
    Nat.or_comm, ← Nat.shiftLeft_add_eq_or_of_lt hw, Nat.shiftLeft_eq, Nat.add_comm]

theorem toNat_or_placeReg {w : Word} {lo : Nat} (r : RegIdx) (hw : w.toNat < 2 ^ lo) (hlo : lo ≤ 28) :
    (w ||| placeReg r lo).toNat = w.toNat + r.val * 2 ^ lo := by
  have hr : (BitVec.ofNat 32 r.val).toNat = r.val := Nat.mod_eq_of_lt (by omega)
  have hfit : r.val * 2 ^ lo < 2 ^ 32 := calc
    r.val * 2 ^ lo < 2 ^ 4 * 2 ^ lo := Nat.mul_lt_mul_of_pos_right r.isLt (Nat.two_pow_pos lo)
    _ ≤ 2 ^ 4 * 2 ^ 28 := Nat.mul_le_mul_left _ (Nat.pow_le_pow_right (by decide) hlo)
  rw [placeReg, toNat_or_shiftLeft hw (by rwa [hr]), hr]

theorem matchWord_toNat {op : Nat} (h : op < 2 ^ 6) : (matchWord op).toNat = op :=
  Nat.mod_eq_of_lt (by omega)

theorem encodeRegs_toNat {op : Nat} (h : op < 2 ^ 6) (rd rs1 rs2 rs3 : RegIdx) :
    (encodeRegs op rd rs1 rs2 rs3).toNat =
      op + rd.val * 2 ^ 8 + rs1.val * 2 ^ 12 + rs2.val * 2 ^ 16 + rs3.val * 2 ^ 20 := by
  have h0 := matchWord_toNat h
  have h1 := toNat_or_placeReg (lo := 8) rd (h0.trans_lt (by omega)) (by decide)
  have h2 := toNat_or_placeReg (lo := 12) rs1 (h1.trans_lt (by omega)) (by decide)
  have h3 := toNat_or_placeReg (lo := 16) rs2 (h2.trans_lt (by omega)) (by decide)
  have h4 := toNat_or_placeReg (lo := 20) rs3 (h3.trans_lt (by omega)) (by decide)
  rw [encodeRegs, h4, h3, h2, h1, h0]

theorem encodeImm_toNat {op : Nat} (h : op < 2 ^ 6) (rd : RegIdx) (imm16 : BitVec 16) :
    (encodeImm op rd imm16).toNat = op + rd.val * 2 ^ 8 + imm16.toNat * 2 ^ 16 := by
  have h0 := matchWord_toNat h
  have h1 := toNat_or_placeReg (lo := 8) rd (h0.trans_lt (by omega)) (by decide)
  have hi : (imm16.setWidth 32).toNat = imm16.toNat := BitVec.toNat_setWidth_of_le (by decide)
  rw [encodeImm, toNat_or_shiftLeft (by omega) (by omega), hi, h1, h0]

/-- Settles O2: each field stands above the bits of the sum before it. -/
theorem encodedWordIsTheSumOfItsFields : Obligations.EncodedWordIsTheSumOfItsFields := by
  unfold Obligations.EncodedWordIsTheSumOfItsFields
  intro op rd rs1 rs2 rs3 imm hop
  exact ⟨encodeRegs_toNat hop rd rs1 rs2 rs3, encodeImm_toNat hop rd imm⟩

/-! ## The fields of a word as numbers -/

/-- The number in the `len` bits of w from bit `lo` up. -/
def bitRange (w : Word) (lo len : Nat) : Nat := (w.extractLsb' lo len).toNat

theorem bitRange_eq (w : Word) (lo len : Nat) : bitRange w lo len = w.toNat / 2 ^ lo % 2 ^ len := by
  rw [bitRange, BitVec.extractLsb'_toNat, Nat.shiftRight_eq_div_pow]

theorem opField_eq (w : Word) : opField w = w.toNat % 2 ^ 6 := by
  rw [← Nat.div_one w.toNat]
  exact bitRange_eq w 0 6

theorem regField_val (w : Word) (lo : Nat) : (regField w lo).val = bitRange w lo 4 := rfl

theorem reservedField_eq_zero_iff (w : Word) : reservedField w = 0#2 ↔ bitRange w 6 2 = 0 :=
  BitVec.toNat_inj.symm

theorem regField_encodeRegs {op : Nat} (h : op < 2 ^ 6) (rd rs1 rs2 rs3 : RegIdx) :
    regField (encodeRegs op rd rs1 rs2 rs3) 8 = rd ∧ regField (encodeRegs op rd rs1 rs2 rs3) 12 = rs1 ∧
    regField (encodeRegs op rd rs1 rs2 rs3) 16 = rs2 ∧ regField (encodeRegs op rd rs1 rs2 rs3) 20 = rs3 := by
  simp only [Fin.ext_iff, regField_val, bitRange_eq, encodeRegs_toNat h]
  omega

theorem fields_encodeImm {op : Nat} (h : op < 2 ^ 6) (rd : RegIdx) (imm16 : BitVec 16) :
    regField (encodeImm op rd imm16) 8 = rd ∧ (encodeImm op rd imm16).extractLsb' 16 16 = imm16 := by
  have hd : bitRange (encodeImm op rd imm16) 8 4 = rd.val := by
    rw [bitRange_eq, encodeImm_toNat h]
    omega
  have hi : bitRange (encodeImm op rd imm16) 16 16 = imm16.toNat := by
    rw [bitRange_eq, encodeImm_toNat h]
    omega
  exact ⟨Fin.ext hd, BitVec.eq_of_toNat_eq hi⟩

/-! ## The mask test -/

/-- The word whose set bits are the `len` bits from bit `lo` up. -/
def rangeMask (lo len : Nat) : Word := (BitVec.allOnes len).setWidth 32 <<< lo

/-- The bit ranges, past the opcode, in which a format fixes every bit 0 (R69): its unused fields and [7:6]. -/
def zeroRanges : Format → List (Nat × Nat)
  | .r4 => [(6, 2), (24, 8)]
  | .r3 => [(6, 2), (20, 4), (24, 8)]
  | .r2 => [(6, 2), (16, 8), (24, 8)]
  | .rc => [(6, 2), (8, 4), (20, 4), (24, 8)]
  | .r1 => [(6, 2), (12, 12), (24, 8)]
  | .i16 => [(6, 2), (12, 4)]

/-- The set bits of these ranges together. -/
def rangesMask (rs : List (Nat × Nat)) : Word := rs.foldr (fun r m => rangeMask r.1 r.2 ||| m) 0#32

theorem formatMask_eq (fmt : Format) : formatMask fmt = rangeMask 0 6 ||| rangesMask (zeroRanges fmt) := by
  cases fmt <;> decide

theorem opcodeMask_disjoint (fmt : Format) : rangeMask 0 6 &&& rangesMask (zeroRanges fmt) = 0#32 := by
  cases fmt <;> decide

theorem and_rangeMask_eq_zero_iff (w : Word) (lo len : Nat) :
    w &&& rangeMask lo len = 0#32 ↔ bitRange w lo len = 0 := by
  have hbits : bitRange w lo len = 0 ↔ w.extractLsb' lo len = 0#len := by
    rw [bitRange, ← BitVec.toNat_inj, BitVec.toNat_ofNat, Nat.zero_mod]
  rw [hbits]
  constructor <;> intro h
  · ext j hj
    by_cases hk : lo + j < 32
    · have hbit := congrArg (·.getLsbD (lo + j)) h
      simpa [rangeMask, hk, hj, show j < 32 by omega] using hbit
    · simp [BitVec.getLsbD_of_ge w (lo + j) (by omega)]
  · ext k hk
    by_cases hin : lo ≤ k ∧ k - lo < len
    · have hbit := congrArg (·.getLsbD (k - lo)) h
      have hwk : w[k] = false := by simpa [hin.2, Nat.add_sub_of_le hin.1, hk] using hbit
      simp [hwk]
    · simp [rangeMask]
      omega

theorem and_rangesMask_eq_zero_iff (w : Word) (rs : List (Nat × Nat)) :
    w &&& rangesMask rs = 0#32 ↔ ∀ r ∈ rs, bitRange w r.1 r.2 = 0 := by
  induction rs with
  | nil => simp [rangesMask]
  | cons r rs ih =>
    have hcons : rangesMask (r :: rs) = rangeMask r.1 r.2 ||| rangesMask rs := rfl
    rw [hcons, BitVec.and_or_distrib_left, BitVec.or_eq_zero_iff, and_rangeMask_eq_zero_iff, ih,
      List.forall_mem_cons]

theorem and_opcodeMask (w : Word) : w &&& rangeMask 0 6 = matchWord (opField w) := by
  apply BitVec.eq_of_toNat_eq
  rw [opField_eq, matchWord_toNat (Nat.mod_lt _ (by decide)), BitVec.toNat_and]
  exact Nat.and_two_pow_sub_one_eq_mod w.toNat 6

theorem or_eq_left_iff_of_disjoint {a b : Word} (h : a &&& b = 0#32) : a ||| b = a ↔ b = 0#32 := by
  constructor <;> intro h'
  · calc b = (a ||| b) &&& b := by ext k hk; simp +contextual
      _ = 0#32 := by rw [h', h]
  · rw [h', BitVec.or_zero]

/-- A word passes its format's mask test when the ranges the format fixes at 0 hold 0 (R69, R72). -/
theorem maskTest_iff (w : Word) (fmt : Format) :
    w &&& formatMask fmt = matchWord (opField w) ↔ ∀ r ∈ zeroRanges fmt, bitRange w r.1 r.2 = 0 := by
  have hdisjoint : matchWord (opField w) &&& (w &&& rangesMask (zeroRanges fmt)) = 0#32 := by
    rw [← and_opcodeMask]
    calc w &&& rangeMask 0 6 &&& (w &&& rangesMask (zeroRanges fmt))
        = w &&& w &&& (rangeMask 0 6 &&& rangesMask (zeroRanges fmt)) := by ac_rfl
      _ = 0#32 := by rw [opcodeMask_disjoint, BitVec.and_zero]
  rw [formatMask_eq, BitVec.and_or_distrib_left, and_opcodeMask, or_eq_left_iff_of_disjoint hdisjoint,
    and_rangesMask_eq_zero_iff]

/-! ## The decoder -/

/-- What the decoder asks of a word whose opcode has this format (R72): the format's zero bits, and two
destinations for DIVMOD. -/
def Accepts (w : Word) (fmt : Format) : Prop :=
  (∀ r ∈ zeroRanges fmt, bitRange w r.1 r.2 = 0) ∧ ¬(opField w = 0x06 ∧ regField w 8 = regField w 20)

theorem reserved_mem_zeroRanges (fmt : Format) : (6, 2) ∈ zeroRanges fmt := by cases fmt <;> simp [zeroRanges]

theorem decode_noRow {w : Word} (h : opcodeRow (opField w) = none) : decode w = .error .reservedOpcode := by
  rw [decode, h]

theorem decode_accepted {w : Word} {fmt : Format} {build : Fields → Instr}
    (hrow : opcodeRow (opField w) = some (fmt, build)) (h : Accepts w fmt) :
    decode w = .ok (build (fieldsOf w)) := by
  obtain ⟨hzero, hdest⟩ := h
  have hres : reservedField w = 0#2 :=
    (reservedField_eq_zero_iff w).mpr (hzero _ (reserved_mem_zeroRanges fmt))
  have hdest' : ¬(opField w = 0x06 ∧ (fieldsOf w).rd = (fieldsOf w).rs3) := hdest
  simp only [decode, hrow]
  rw [if_neg (not_not.mpr hres), if_neg (not_not.mpr ((maskTest_iff w fmt).mpr hzero)), if_neg hdest']

theorem decode_refused {w : Word} {fmt : Format} {build : Fields → Instr}
    (hrow : opcodeRow (opField w) = some (fmt, build)) (h : ¬Accepts w fmt) : ∃ e, decode w = .error e := by
  simp only [decode, hrow]
  split; · exact ⟨_, rfl⟩
  split; · exact ⟨_, rfl⟩
  rename_i hmask
  split; · exact ⟨_, rfl⟩
  rename_i hdest
  exact absurd ⟨(maskTest_iff w fmt).mp (not_not.mp hmask), hdest⟩ h

/-- Inversion of the decoder: a word it decodes has a row, which accepts it and makes the command. -/
theorem decode_ok {w : Word} {i : Instr} (h : decode w = .ok i) :
    ∃ fmt build, opcodeRow (opField w) = some (fmt, build) ∧ Accepts w fmt ∧ build (fieldsOf w) = i := by
  cases hrow : opcodeRow (opField w) with
  | none => exact nomatch (decode_noRow hrow).symm.trans h
  | some row =>
    by_cases ha : Accepts w row.1
    · exact ⟨_, _, rfl, ha, Except.ok.inj ((decode_accepted hrow ha).symm.trans h)⟩
    · obtain ⟨e, he⟩ := decode_refused hrow ha
      exact nomatch he.symm.trans h

/-- The decoder refuses a word its opcode's format does not accept, and a word whose opcode has no row. -/
theorem decode_error_iff (w : Word) :
    (∃ e, decode w = .error e) ↔ ∀ row ∈ opcodeRow (opField w), ¬Accepts w row.1 := by
  constructor
  · rintro ⟨e, he⟩ row hrow ha
    exact nomatch he.symm.trans (decode_accepted hrow ha)
  · intro h
    cases hrow : opcodeRow (opField w) with
    | none => exact ⟨_, decode_noRow hrow⟩
    | some row => exact decode_refused hrow (h row hrow)

theorem not_accepts_iff (w : Word) (fmt : Format) :
    ¬Accepts w fmt ↔ (∃ r ∈ zeroRanges fmt, bitRange w r.1 r.2 ≠ 0) ∨
      (opField w = 0x06 ∧ bitRange w 8 4 = bitRange w 20 4) := by
  have hdest : regField w 8 = regField w 20 ↔ bitRange w 8 4 = bitRange w 20 4 := Fin.ext_iff
  rw [Accepts, hdest, not_and_or, not_not]
  push Not
  rfl

/-! ## A row's command and its word -/

/-- The word a format lays out from an opcode and fields, the fields it does not use 0 (R69, R78). -/
def encodeFields (op : Nat) (f : Fields) : Format → Word
  | .r4 => encodeRegs op f.rd f.rs1 f.rs2 f.rs3
  | .r3 => encodeRegs op f.rd f.rs1 f.rs2 0
  | .r2 => encodeRegs op f.rd f.rs1 0 0
  | .rc => encodeRegs op 0 f.rs1 f.rs2 0
  | .r1 => encodeRegs op f.rd 0 0 0
  | .i16 => encodeImm op f.rd f.imm16

/-- The command a row makes has the word its format lays out, and is legal unless it is DIVMOD with one
destination (R71). -/
theorem encode_build {op : Nat} {fmt : Format} {build : Fields → Instr}
    (h : opcodeRow op = some (fmt, build)) (f : Fields) :
    encode (build f) = encodeFields op f fmt ∧ ((build f).wf = true ↔ ¬(op = 0x06 ∧ f.rd = f.rs3)) := by
  unfold opcodeRow at h
  split at h <;> cases h <;> exact ⟨rfl, by simp [Instr.wf]⟩

/-- Laying out an accepted word's own fields gives that word. -/
theorem encodeFields_fieldsOf {w : Word} {fmt : Format} (h : ∀ r ∈ zeroRanges fmt, bitRange w r.1 r.2 = 0) :
    encodeFields (opField w) (fieldsOf w) fmt = w := by
  have hop : opField w = w.toNat % 2 ^ 6 := opField_eq w
  have hlt : opField w < 2 ^ 6 := (w.extractLsb' 0 6).isLt
  have himm : (w.extractLsb' 16 16).toNat = bitRange w 16 16 := rfl
  apply BitVec.eq_of_toNat_eq
  cases fmt <;>
    simp only [zeroRanges, List.forall_mem_cons, bitRange_eq] at h <;>
    simp only [encodeFields, encodeRegs_toNat hlt, encodeImm_toNat hlt, fieldsOf, regField_val, himm, bitRange_eq] <;>
    omega

/-- Settles O3: the row that accepts the word lays out the same word for the command it makes. -/
theorem decodedWordIsItsEncoding : Obligations.DecodedWordIsItsEncoding := by
  unfold Obligations.DecodedWordIsItsEncoding
  intro w i hdecode
  obtain ⟨fmt, build, hrow, ⟨hzero, hdest⟩, rfl⟩ := decode_ok hdecode
  obtain ⟨hword, hwf⟩ := encode_build hrow (fieldsOf w)
  exact ⟨hwf.mpr hdest, hword.trans (encodeFields_fieldsOf hzero)⟩

/-- Every command's word matches its row (R69, R71). -/
theorem encode_matches : ∀ i : Instr, Laws.EncodingMatchesRow.Statement i
  | .add .. => Laws.EncodingMatchesRow.add ..
  | .sub .. => Laws.EncodingMatchesRow.sub ..
  | .addu .. => Laws.EncodingMatchesRow.addu ..
  | .subu .. => Laws.EncodingMatchesRow.subu ..
  | .mul .. => Laws.EncodingMatchesRow.mul ..
  | .divmod .. => Laws.EncodingMatchesRow.divmod ..
  | .shl .. => Laws.EncodingMatchesRow.shl ..
  | .shr .. => Laws.EncodingMatchesRow.shr ..
  | .cmp .. => Laws.EncodingMatchesRow.cmp ..
  | .bitlen .. => Laws.EncodingMatchesRow.bitlen ..
  | .bit .. => Laws.EncodingMatchesRow.bit ..
  | .mov .. => Laws.EncodingMatchesRow.mov ..
  | .neg .. => Laws.EncodingMatchesRow.neg ..
  | .inc .. => Laws.EncodingMatchesRow.inc ..
  | .dec .. => Laws.EncodingMatchesRow.dec ..
  | .ldw .. => Laws.EncodingMatchesRow.ldw ..
  | .montmul .. => Laws.EncodingMatchesRow.montmul ..
  | .modexp .. => Laws.EncodingMatchesRow.modexp ..

/-- A command is what its row makes of the fields of its word (R71, R78). -/
theorem opcodeRow_opcodeOf (i : Instr) :
    ∃ build, opcodeRow (opcodeOf i) = some (formatOf i, build) ∧ build (fieldsOf (encode i)) = i := by
  cases i <;> exact ⟨_, rfl, by simp [encode, fieldsOf, regField_encodeRegs, fields_encodeImm]⟩

/-- Settles O1: the command's row accepts its word, and makes the command of the word's fields. -/
theorem decodeEncodeReturnsCommand : Obligations.DecodeEncodeReturnsCommand := by
  unfold Obligations.DecodeEncodeReturnsCommand
  intro i hwf
  obtain ⟨hmask, hop, -⟩ := encode_matches i
  obtain ⟨build, hrow, hbuild⟩ := opcodeRow_opcodeOf i
  rw [← hop] at hrow hmask
  have hdest := (encode_build hrow (fieldsOf (encode i))).2.mp (by rwa [hbuild])
  rw [decode_accepted hrow ⟨(maskTest_iff _ _).mp hmask, hdest⟩, hbuild]

/-- The reserved opcodes stand in no row (R71, R73). -/
theorem opcodeRow_reserved {op : Nat} (h : op = 0x00 ∨ 0x13 ≤ op) : opcodeRow op = none := by
  unfold opcodeRow
  split
  case h_19 => rfl
  all_goals omega

/-- Settles O4: a reserved opcode has no row; for each other one, the ranges its row's format does not accept. -/
theorem illegalWordsAreExactlyThoseListed : Obligations.IllegalWordsAreExactlyThoseListed := by
  unfold Obligations.IllegalWordsAreExactlyThoseListed
  intro w op bits
  have hop : op = opField w := (opField_eq w).symm
  have hbits : bits = bitRange w := funext₂ fun lo len => (bitRange_eq w lo len).symm
  rw [decode_error_iff, hop, hbits]
  simp only [not_accepts_iff]
  generalize opField w = code
  by_cases hreserved : code = 0x00 ∨ 0x13 ≤ code
  · rw [opcodeRow_reserved hreserved]
    simp [hreserved, ← or_assoc]
  · have hlo : 1 ≤ code := by omega
    have hhi : code ≤ 18 := by omega
    interval_cases code <;>
      simp only [opcodeRow, Option.mem_def, Option.some.injEq, forall_eq', zeroRanges, List.exists_mem_cons_iff] <;>
      simp [or_assoc]

/-- Settles O5: the decoder run on each word. -/
theorem specExampleWordsDecode : Obligations.SpecExampleWordsDecode := by
  unfold Obligations.SpecExampleWordsDecode
  decide

end Sys2Proof
end

section
/-! PROOFS. The chains, the comparisons and the signed wrapper are exact, and so are the commands over them: the
add and subtract family, O8 to O16 and O27. -/

namespace Sys2Proof.Machine

/-! ## The chains -/

theorem two_pow_limbs_succ (n : Nat) : 2 ^ (32 * (n + 1)) = 2 ^ 32 * 2 ^ (32 * n) := by
  rw [Nat.mul_succ, Nat.add_comm, pow_add]

theorem carryChain_length {as bs : List Word} (h : as.length = bs.length) (c : Bool) :
    (carryChain as bs c).1.length = as.length := by
  induction as generalizing bs c with
  | nil => rfl
  | cons a as ih =>
    cases bs with
    | nil => exact nomatch h
    | cons b bs => exact congrArg Nat.succ (ih (Nat.succ.inj h) _)

theorem borrowChain_length {as bs : List Word} (h : as.length = bs.length) (bw : Bool) :
    (borrowChain as bs bw).1.length = as.length := by
  induction as generalizing bs bw with
  | nil => rfl
  | cons a as ih =>
    cases bs with
    | nil => exact nomatch h
    | cons b bs => exact congrArg Nat.succ (ih (Nat.succ.inj h) _)

/-- A limb adder's sum is below 2^33, so bit 32 is all that its limb leaves out (R81). -/
theorem limbSum_split {n : Nat} (h : n < 2 ^ 33) :
    (BitVec.ofNat 32 n).toNat + 2 ^ 32 * (n.testBit 32).toNat = n := by
  rw [BitVec.toNat_ofNat, Nat.toNat_testBit]
  omega

/-- A limb subtractor's difference is its limb, less 2^32 when it borrows (R82). -/
theorem limbDifference_split (a b : Word) (bw : Bool) {d : Int} (h : (a.toNat : Int) - b.toNat - bw.toNat = d) :
    (BitVec.ofInt 32 d).toNat + b.toNat + bw.toNat = a.toNat + 2 ^ 32 * (decide (d < 0)).toNat := by
  have ha := a.isLt
  have hb := b.isLt
  have hbw := bw.toNat_le
  rw [BitVec.toNat_ofInt]
  by_cases hd : d < 0 <;> simp [hd] <;> omega

/-- R84's first identity, with any carry into the lowest limb. -/
theorem carryChain_exact {as bs : List Word} (h : as.length = bs.length) (c : Bool) :
    limbsValue (carryChain as bs c).1 + 2 ^ (32 * as.length) * (carryChain as bs c).2.toNat =
      limbsValue as + limbsValue bs + c.toNat := by
  induction as generalizing bs c with
  | nil =>
    obtain rfl := List.eq_nil_of_length_eq_zero h.symm
    simp [carryChain, limbsValue]
  | cons a as ih =>
    cases bs with
    | nil => exact nomatch h
    | cons b bs =>
      have hs : a.toNat + b.toNat + c.toNat < 2 ^ 33 := by
        have := a.isLt; have := b.isLt; have := c.toNat_lt; omega
      have hlimb := limbSum_split hs
      have hrest := ih (Nat.succ.inj h) ((a.toNat + b.toNat + c.toNat).testBit 32)
      simp only [carryChain, limbsValue, List.length_cons, two_pow_limbs_succ, Nat.mul_assoc]
      linarith

/-- R84's second identity without its subtractions, with any borrow into the lowest limb. -/
theorem borrowChain_exact {as bs : List Word} (h : as.length = bs.length) (bw : Bool) :
    limbsValue (borrowChain as bs bw).1 + limbsValue bs + bw.toNat =
      limbsValue as + 2 ^ (32 * as.length) * (borrowChain as bs bw).2.toNat := by
  induction as generalizing bs bw with
  | nil =>
    obtain rfl := List.eq_nil_of_length_eq_zero h.symm
    simp [borrowChain, limbsValue]
  | cons a as ih =>
    cases bs with
    | nil => exact nomatch h
    | cons b bs =>
      have hlimb := limbDifference_split a b bw rfl
      have hrest := ih (Nat.succ.inj h) (decide ((a.toNat : Int) - b.toNat - bw.toNat < 0))
      simp only [borrowChain, limbsValue, List.length_cons, two_pow_limbs_succ, Nat.mul_assoc]
      linarith

/-- Settles O8: each chain's identity, with its carry or borrow out 0 or 1 and its limbs below CAP. -/
theorem chainsAddAndSubtractExactly : Obligations.ChainsAddAndSubtractExactly := by
  unfold Obligations.ChainsAddAndSubtractExactly
  intro as bs h p q cap sum dif
  have hsumLen : sum.1.length = as.length := carryChain_length h false
  have hdifLen : dif.1.length = as.length := borrowChain_length h false
  have hsum : limbsValue sum.1 + cap * sum.2.toNat = p + q := carryChain_exact h false
  have hdif : limbsValue dif.1 + q = p + cap * dif.2.toNat := borrowChain_exact h false
  have hsumLt : limbsValue sum.1 < cap := by simpa only [hsumLen] using limbsValue_lt sum.1
  have hdifLt : limbsValue dif.1 < cap := by simpa only [hdifLen] using limbsValue_lt dif.1
  have hp : p < cap := limbsValue_lt as
  have hq : q < cap := by simpa only [← h] using limbsValue_lt bs
  rw [Nat.mul_comm] at hsum hdif
  refine ⟨hsumLen, hsum, ?_, hdifLen, by omega, ?_⟩
  · cases hc : sum.2 with
    | false =>
      have hexact : limbsValue sum.1 = p + q := by simpa [hc] using hsum
      simp; omega
    | true =>
      have hover : limbsValue sum.1 + cap = p + q := by simpa [hc] using hsum
      simp; omega
  · cases hb : dif.2 with
    | false =>
      have hexact : limbsValue dif.1 + q = p := by simpa [hb] using hdif
      simp; omega
    | true =>
      have hunder : limbsValue dif.1 + q = p + cap := by simpa [hb] using hdif
      simp; omega

/-! ## Comparisons -/

/-- MagCmp is the comparison of the two magnitudes (R83): the most significant difference decides. -/
theorem magCmp_eq_compare {as bs : List Word} (h : as.length = bs.length) :
    magCmp as bs = compare (limbsValue as) (limbsValue bs) := by
  induction as generalizing bs with
  | nil =>
    obtain rfl := List.eq_nil_of_length_eq_zero h.symm
    rfl
  | cons a as ih =>
    cases bs with
    | nil => exact nomatch h
    | cons b bs =>
      have ha := a.isLt
      have hb := b.isLt
      rw [magCmp, ih (Nat.succ.inj h), limbsValue, limbsValue]
      obtain hlt | heq | hgt := lt_trichotomy (limbsValue as) (limbsValue bs)
      · rw [compare_lt_iff_lt.mpr hlt, compare_lt_iff_lt.mpr (by omega)]
      · rw [compare_eq_iff_eq.mpr heq, heq, Nat.compare_eq_ite_lt]
        simp
      · rw [compare_gt_iff_gt.mpr hgt, compare_gt_iff_gt.mpr (by omega)]

theorem magCmp_magLimbs {c : Config} {a b : Int} (ha : a.natAbs < capacity c) (hb : b.natAbs < capacity c) :
    magCmp (magLimbs c a) (magLimbs c b) = compare a.natAbs b.natAbs := by
  rw [magCmp_eq_compare (by simp), limbsValue_magLimbs ha, limbsValue_magLimbs hb]

/-- Comparisons agree when both of their strict orders do. -/
theorem compare_eq_compare {m n : Nat} {a b : Int} (hlt : m < n ↔ a < b) (hgt : n < m ↔ b < a) :
    compare m n = compare a b := by
  obtain h | h | h := lt_trichotomy a b
  · rw [compare_lt_iff_lt.mpr h, compare_lt_iff_lt.mpr (hlt.mpr h)]
  · rw [compare_eq_iff_eq.mpr h, compare_eq_iff_eq.mpr (by omega)]
  · rw [compare_gt_iff_gt.mpr h, compare_gt_iff_gt.mpr (hgt.mpr h)]

/-- Settles O9: MagCmp is the comparison of magnitudes, and each pair of signs orders them as R105 says. -/
theorem limbComparisonsAreIntegerOrder : Obligations.LimbComparisonsAreIntegerOrder := by
  unfold Obligations.LimbComparisonsAreIntegerOrder
  refine ⟨fun as bs => magCmp_eq_compare, fun c a b ha hb => ?_⟩
  rw [compareValues, magCmp_magLimbs ha hb]
  split
  · exact (compare_lt_iff_lt.mpr (by omega)).symm
  split
  · exact (compare_gt_iff_gt.mpr (by omega)).symm
  split
  · exact compare_eq_compare (by omega) (by omega)
  · rw [← Std.OrientedCmp.eq_swap]
    exact compare_eq_compare (by omega) (by omega)

/-! ## The signed wrapper -/

theorem capacityChecked_of_lt {c : Config} {v : Int} (h : v.natAbs < capacity c) : capacityChecked c v = .ok v :=
  if_pos h

theorem capacityChecked_of_le {c : Config} {v : Int} (h : capacity c ≤ v.natAbs) :
    capacityChecked c v = .error .capacity := if_neg (Nat.not_lt_of_le h)

/-- The adder of two magnitudes: the exact sum, or a carry out when it reaches CAP (R84). -/
theorem carryChain_magLimbs {c : Config} {a b : Int} (ha : a.natAbs < capacity c) (hb : b.natAbs < capacity c) :
    ((carryChain (magLimbs c a) (magLimbs c b) false).2 = true ↔ capacity c ≤ a.natAbs + b.natAbs) ∧
    (a.natAbs + b.natAbs < capacity c →
      limbsValue (carryChain (magLimbs c a) (magLimbs c b) false).1 = a.natAbs + b.natAbs) := by
  obtain ⟨-, hsum, hcarry, -⟩ := chainsAddAndSubtractExactly (magLimbs c a) (magLimbs c b) (by simp)
  rw [limbsValue_magLimbs ha, limbsValue_magLimbs hb, magLimbs_length] at hsum hcarry
  refine ⟨hcarry, fun h => ?_⟩
  have hno : (carryChain (magLimbs c a) (magLimbs c b) false).2 = false :=
    Bool.eq_false_iff.mpr fun hc => (Nat.not_le_of_lt h) (hcarry.mp hc)
  simpa [hno] using hsum

/-- The subtractor of two magnitudes, the larger one first (R84). -/
theorem borrowChain_magLimbs {c : Config} {a b : Int} (ha : a.natAbs < capacity c) (h : b.natAbs ≤ a.natAbs) :
    limbsValue (borrowChain (magLimbs c a) (magLimbs c b) false).1 = a.natAbs - b.natAbs := by
  obtain ⟨-, -, -, -, -, -, -, hdif⟩ := chainsAddAndSubtractExactly (magLimbs c a) (magLimbs c b) (by simp)
  rw [limbsValue_magLimbs ha, limbsValue_magLimbs (h.trans_lt ha)] at hdif
  exact hdif h

/-- ADDU's sum is the exact one, or CAPACITY (R85). -/
theorem unsignedAdd_eq {c : Config} {a b : Int} (ha : a.natAbs < capacity c) (hb : b.natAbs < capacity c) :
    unsignedAdd c a b = capacityChecked c (a.natAbs + b.natAbs : Nat) := by
  obtain ⟨hcarry, hsum⟩ := carryChain_magLimbs ha hb
  rw [unsignedAdd]
  by_cases h : capacity c ≤ a.natAbs + b.natAbs
  · rw [if_pos (hcarry.mpr h), capacityChecked_of_le (by omega)]
  · rw [if_neg (mt hcarry.mp h), capacityChecked_of_lt (by omega), hsum (by omega)]

/-- SUBU's difference when the larger magnitude comes first, and its fault when not (R86). -/
theorem unsignedSub_eq {c : Config} {a b : Int} (ha : a.natAbs < capacity c) (hb : b.natAbs < capacity c) :
    unsignedSub c a b =
      if a.natAbs < b.natAbs then .error .magnitudeOrder else .ok ((a.natAbs : Int) - b.natAbs) := by
  rw [unsignedSub, magCmp_magLimbs ha hb]
  by_cases h : a.natAbs < b.natAbs
  · rw [if_pos (compare_lt_iff_lt.mpr h), if_pos h]
  · rw [if_neg (mt compare_lt_iff_lt.mp h), if_neg h, borrowChain_magLimbs ha (by omega), Nat.cast_sub (by omega)]

/-- Equal signs: the sum of the magnitudes, with the sign both have (R87). -/
theorem signedAdd_of_sameSign {c : Config} {a b : Int} (h : a < 0 ↔ b < 0) (ha : a.natAbs < capacity c)
    (hb : b.natAbs < capacity c) : signedAdd c a b = capacityChecked c (a + b) := by
  obtain ⟨hcarry, hsum⟩ := carryChain_magLimbs ha hb
  rw [signedAdd, if_pos (decide_eq_decide.mpr h)]
  by_cases hcap : capacity c ≤ a.natAbs + b.natAbs
  · rw [if_pos (hcarry.mpr hcap), capacityChecked_of_le (by omega)]
  · rw [if_neg (mt hcarry.mp hcap), capacityChecked_of_lt (by omega), hsum (by omega), withSign_of_sign]
    congr 1; split <;> omega

/-- Unequal signs: the difference of the magnitudes, with the sign of the larger, which always fits (R87). -/
theorem signedAdd_of_otherSign {c : Config} {a b : Int} (h : ¬(a < 0 ↔ b < 0)) (ha : a.natAbs < capacity c)
    (hb : b.natAbs < capacity c) : signedAdd c a b = capacityChecked c (a + b) := by
  rw [signedAdd, if_neg (mt decide_eq_decide.mp h), capacityChecked_of_lt (by omega), magCmp_magLimbs ha hb]
  by_cases horder : a.natAbs < b.natAbs
  · rw [if_neg (not_not_intro (compare_lt_iff_lt.mpr horder)), borrowChain_magLimbs hb (by omega), withSign_of_sign]
    congr 1; split <;> omega
  · rw [if_pos (mt compare_lt_iff_lt.mp horder), borrowChain_magLimbs ha (by omega), withSign_of_sign]
    congr 1; split <;> omega

theorem signedAdd_eq {c : Config} {a b : Int} (ha : a.natAbs < capacity c) (hb : b.natAbs < capacity c) :
    signedAdd c a b = capacityChecked c (a + b) := by
  by_cases h : a < 0 ↔ b < 0
  · exact signedAdd_of_sameSign h ha hb
  · exact signedAdd_of_otherSign h ha hb

/-- Settles O10: SignedAdd is the checked exact sum. -/
theorem signedAddIsExactOrCapacity : Obligations.SignedAddIsExactOrCapacity := by
  unfold Obligations.SignedAddIsExactOrCapacity
  intro c a b ha hb
  rw [signedAdd_eq ha hb]
  exact ⟨capacityChecked_of_lt, capacityChecked_of_le⟩

/-! ## Commands -/

/-- A checked result is written when it fits, and faults when it does not (R124). -/
theorem finish_capacityChecked (s : State) (rd : RegIdx) (v : Int) :
    (v.natAbs < capacity s.cfg →
      finish s (resultOf rd (capacityChecked s.cfg v)) = .next (resultState s rd v)) ∧
    (capacity s.cfg ≤ v.natAbs →
      finish s (resultOf rd (capacityChecked s.cfg v)) = .next (faultState s .capacity)) := by
  refine ⟨fun h => ?_, fun h => ?_⟩
  · rw [capacityChecked_of_lt h, finish_ok]
  · rw [capacityChecked_of_le h, finish_error]

theorem exec_add (s : State) (rd rs1 rs2 : RegIdx) :
    exec (.add rd rs1 rs2) s = finish s (resultOf rd (capacityChecked s.cfg (readReg s rs1 + readReg s rs2))) := by
  rw [exec, execAdd, signedAdd_eq (natAbs_readReg_lt s rs1) (natAbs_readReg_lt s rs2)]

theorem exec_sub (s : State) (rd rs1 rs2 : RegIdx) :
    exec (.sub rd rs1 rs2) s = finish s (resultOf rd (capacityChecked s.cfg (readReg s rs1 - readReg s rs2))) := by
  have hb : (-readReg s rs2).natAbs < capacity s.cfg := by rw [Int.natAbs_neg]; exact natAbs_readReg_lt s rs2
  rw [exec, execSub, signedAdd_eq (natAbs_readReg_lt s rs1) hb, ← Int.sub_eq_add_neg]

theorem exec_addu (s : State) (rd rs1 rs2 : RegIdx) :
    exec (.addu rd rs1 rs2) s = finish s
      (resultOf rd (capacityChecked s.cfg ((readReg s rs1).natAbs + (readReg s rs2).natAbs : Nat))) := by
  rw [exec, execAddu, unsignedAdd_eq (natAbs_readReg_lt s rs1) (natAbs_readReg_lt s rs2)]

theorem exec_inc {s : State} (hw : s.cfg.wf = true) (rd : RegIdx) :
    exec (.inc rd) s = finish s (resultOf rd (capacityChecked s.cfg (readReg s rd + 1))) := by
  have hcap := two_pow_32_le_capacity hw
  rw [exec, execInc, signedAdd_eq (natAbs_readReg_lt s rd) (by omega)]

theorem exec_dec {s : State} (hw : s.cfg.wf = true) (rd : RegIdx) :
    exec (.dec rd) s = finish s (resultOf rd (capacityChecked s.cfg (readReg s rd - 1))) := by
  have hcap := two_pow_32_le_capacity hw
  rw [exec, execDec, signedAdd_eq (natAbs_readReg_lt s rd) (by omega), ← Int.sub_eq_add_neg]

/-- N of a value that is not negative (R85, R86). -/
theorem resultState_of_nonneg (s : State) (rd : RegIdx) {v : Int} (h : 0 ≤ v) :
    { resultState s rd v with n := false } = resultState s rd v := by
  simp [resultState, Int.not_lt.mpr h]

/-- Settles O11: ADD completes with the checked sum. -/
theorem addWritesSum : Obligations.AddWritesSum := by
  unfold Obligations.AddWritesSum
  intro s rd rs1 rs2 v
  rw [exec_add]
  exact finish_capacityChecked s rd v

/-- Settles O12: SUB completes with the checked difference. -/
theorem subWritesDifference : Obligations.SubWritesDifference := by
  unfold Obligations.SubWritesDifference
  intro s rd rs1 rs2 v
  rw [exec_sub]
  exact finish_capacityChecked s rd v

/-- Settles O13: ADDU completes with the checked sum of magnitudes, which is not negative. -/
theorem adduWritesSumOfMagnitudes : Obligations.AdduWritesSumOfMagnitudes := by
  unfold Obligations.AdduWritesSumOfMagnitudes
  intro s rd rs1 rs2 v
  rw [exec_addu, resultState_of_nonneg s rd (Int.natCast_nonneg v)]
  exact finish_capacityChecked s rd v

/-- Settles O14: SUBU completes with the difference of magnitudes, which its check keeps from being negative. -/
theorem subuWritesDifferenceOfMagnitudes : Obligations.SubuWritesDifferenceOfMagnitudes := by
  unfold Obligations.SubuWritesDifferenceOfMagnitudes
  intro s rd rs1 rs2 a b
  rw [exec, execSubu, unsignedSub_eq (natAbs_readReg_lt s rs1) (natAbs_readReg_lt s rs2)]
  refine ⟨fun h => ?_, fun h => ?_⟩
  · rw [if_neg (Nat.not_lt_of_le h), resultState_of_nonneg s rd (by omega), finish_ok]
  · rw [if_pos h, finish_error]

/-- Settles O15: the sum with 1 or -1 reaches CAP from the named end of the range only. -/
theorem incAndDecStepByOne : Obligations.IncAndDecStepByOne := by
  unfold Obligations.IncAndDecStepByOne
  intro s rd hw a
  have ha : a.natAbs < capacity s.cfg := natAbs_readReg_lt s rd
  obtain ⟨hincFits, hincFault⟩ := finish_capacityChecked s rd (a + 1)
  obtain ⟨hdecFits, hdecFault⟩ := finish_capacityChecked s rd (a - 1)
  rw [exec_inc hw, exec_dec hw]
  exact ⟨fun h => hincFits (by omega), fun h => hincFault (by omega), fun h => hdecFits (by omega),
    fun h => hdecFault (by omega)⟩

/-- Settles O16: neither command can raise a cause. -/
theorem negAndMovAlwaysComplete : Obligations.NegAndMovAlwaysComplete := by
  unfold Obligations.NegAndMovAlwaysComplete
  intro s rd rs1
  exact ⟨finish_writesResult s rd _, finish_writesResult s rd _⟩

/-! ## Commands that undo one another -/

@[simp] theorem resultState_cfg (s : State) (rd : RegIdx) (v : Int) : (resultState s rd v).cfg = s.cfg := rfl

@[simp] theorem resultState_fault (s : State) (rd : RegIdx) (v : Int) : (resultState s rd v).fault = s.fault := rfl

theorem readReg_writeReg_other (s : State) {i k : RegIdx} (v : Int) (h : k ≠ i) :
    readReg (writeReg s i v) k = readReg s k := by
  rw [readReg, writeReg_getElem, if_neg h, writeReg_cfg, readReg]

theorem readReg_resultState_same {s : State} {rd : RegIdx} {v : Int} (h : v.natAbs < capacity s.cfg) :
    readReg (resultState s rd v) rd = v := readReg_writeReg_same (s := s) h

theorem readReg_resultState_other (s : State) {rd i : RegIdx} (v : Int) (h : i ≠ rd) :
    readReg (resultState s rd v) i = readReg s i := readReg_writeReg_other s v h

/-- A command that leaves x in rd, and one that then leaves a's value: a is read back and FAULT stays (R93). -/
theorem undo_of_results {s : State} {i j : Instr} {rd rd' : RegIdx} {x a : Int}
    (hi : exec i s = .next (resultState s rd x))
    (hj : exec j (resultState s rd x) = .next (resultState (resultState s rd x) rd' a))
    (ha : a.natAbs < capacity s.cfg) :
    ∃ t u, exec i s = .next t ∧ exec j t = .next u ∧ readReg u rd' = a ∧ u.fault = s.fault :=
  ⟨_, _, hi, hj, readReg_resultState_same ha, rfl⟩

theorem exec_add_of_fits {s : State} {rd rs1 rs2 : RegIdx} {v : Int} (hv : readReg s rs1 + readReg s rs2 = v)
    (h : v.natAbs < capacity s.cfg) : exec (.add rd rs1 rs2) s = .next (resultState s rd v) := by
  rw [exec_add, hv]
  exact (finish_capacityChecked s rd v).1 h

theorem exec_sub_of_fits {s : State} {rd rs1 rs2 : RegIdx} {v : Int} (hv : readReg s rs1 - readReg s rs2 = v)
    (h : v.natAbs < capacity s.cfg) : exec (.sub rd rs1 rs2) s = .next (resultState s rd v) := by
  rw [exec_sub, hv]
  exact (finish_capacityChecked s rd v).1 h

/-- Settles O27: each second command's exact result is the first one's operand. -/
theorem addSubUndoEachOther : Obligations.AddSubUndoEachOther := by
  unfold Obligations.AddSubUndoEachOther
  intro s rd rd' rs1 rs2 hw hne a b
  have ha : a.natAbs < capacity s.cfg := natAbs_readReg_lt s rs1
  have hb (x : Int) : readReg (resultState s rd x) rs2 = b := readReg_resultState_other s x hne.symm
  refine ⟨fun h => ?_, fun h => ?_, fun h => ?_, fun h => ?_, ?_, fun h => ?_⟩
  · refine undo_of_results (exec_add_of_fits rfl h) (exec_sub_of_fits ?_ ha) ha
    rw [readReg_resultState_same h, hb]; omega
  · refine undo_of_results (exec_sub_of_fits rfl h) (exec_add_of_fits ?_ ha) ha
    rw [readReg_resultState_same h, hb]; omega
  · have hexec := (adduWritesSumOfMagnitudes s rd rs1 rs2).1 h
    exact ⟨_, hexec, readReg_resultState_same (by omega), rfl⟩
  · have hexec := (subuWritesDifferenceOfMagnitudes s rd rs1 rs2).1 h
    exact ⟨_, hexec, readReg_resultState_same (by omega), rfl⟩
  · have hneg : (-a).natAbs < capacity s.cfg := by rwa [Int.natAbs_neg]
    refine undo_of_results (negAndMovAlwaysComplete s rd rs1).1 ?_ ha
    rw [(negAndMovAlwaysComplete _ rd' rd).1, readReg_resultState_same hneg, Int.neg_neg]
  · have hinc : (a + 1).natAbs < capacity s.cfg := by omega
    have hread : readReg (resultState s rs1 (a + 1)) rs1 = a + 1 := readReg_resultState_same hinc
    obtain ⟨hincResult, -⟩ := incAndDecStepByOne s rs1 hw
    obtain ⟨-, -, hdecResult, -⟩ := incAndDecStepByOne (resultState s rs1 (a + 1)) rs1 hw
    rw [hread, resultState_cfg, Int.add_sub_cancel] at hdecResult
    exact undo_of_results (hincResult (by omega)) (hdecResult (by omega)) ha

end Sys2Proof.Machine
end

section
/-! PROOFS. The schoolbook product is exact, and so is MUL, whose value is R95's text over it: the multiply
family, O18 and O29. -/

namespace Sys2Proof.Machine

/-! ## MUL -/

/-- The test against 0 changes no integer value: -0 is 0. -/
theorem withSign_eq_ite (neg : Bool) (m : Nat) : withSign neg m = if neg = true then -(m : Int) else m := by
  by_cases hm : m = 0 <;> simp [withSign, hm]

/-- R95's rule of signs: a product is negative when exactly one factor is. -/
theorem withSign_xor_natAbs_mul (a b : Int) :
    withSign (xor (decide (a < 0)) (decide (b < 0))) (a.natAbs * b.natAbs) = a * b := by
  have habs (x : Int) : ((x.natAbs : Nat) : Int) = if x < 0 then -x else x := by split <;> omega
  rw [withSign_eq_ite, Nat.cast_mul, habs, habs]
  by_cases ha : a < 0 <;> by_cases hb : b < 0 <;> simp [ha, hb]

theorem signedMul_eq (c : Config) (a b : Int) : signedMul c a b = capacityChecked c (a * b) := by
  rw [signedMul, withSign_xor_natAbs_mul]

/-- Settles O18: MUL completes with the checked product. -/
theorem mulWritesProduct : Obligations.MulWritesProduct := by
  unfold Obligations.MulWritesProduct
  intro s rd rs1 rs2 v
  rw [exec, execMul, signedMul_eq]
  exact finish_capacityChecked s rd v

/-! ## The schoolbook product -/

@[simp] theorem productRow_length (a : Word) (bs ps : List Word) (c : Nat) :
    (productRow a bs ps c).length = ps.length := by
  induction ps generalizing bs c with
  | nil => cases bs <;> rfl
  | cons p ps ih =>
    cases bs with
    | nil => rfl
    | cons b bs => exact congrArg Nat.succ (ih bs _)

/-- A pass changes only the limbs over B and the one that takes its carry. -/
theorem productRow_append {bs ps : List Word} (h : ps.length = bs.length) (a p : Word) (rest : List Word) (c : Nat) :
    productRow a bs (ps ++ p :: rest) c = productRow a bs (ps ++ [p]) c ++ rest := by
  induction bs generalizing ps c with
  | nil =>
    obtain rfl := List.eq_nil_of_length_eq_zero h
    rfl
  | cons b bs ih =>
    cases ps with
    | nil => exact nomatch h
    | cons q ps => exact congrArg (List.cons _) (ih (Nat.succ.inj h) _)

/-- R94's bound: a limb, a product of two limbs and a carry limb leave a carry of one limb. -/
theorem productCarry_lt (p a b : Word) {c : Nat} (hc : c < 2 ^ 32) :
    (p.toNat + a.toNat * b.toNat + c) / 2 ^ 32 < 2 ^ 32 := by
  have hp := p.isLt
  have hab : a.toNat * b.toNat ≤ (2 ^ 32 - 1) * (2 ^ 32 - 1) :=
    Nat.mul_le_mul (Nat.le_sub_one_of_lt a.isLt) (Nat.le_sub_one_of_lt b.isLt)
  omega

/-- A pass adds a * B and its carry in; the limb above is overwritten, whatever it held. -/
theorem productRow_exact {bs ps : List Word} (h : ps.length = bs.length) (a p : Word) {c : Nat} (hc : c < 2 ^ 32) :
    limbsValue (productRow a bs (ps ++ [p]) c) = limbsValue ps + a.toNat * limbsValue bs + c := by
  induction bs generalizing ps c with
  | nil =>
    obtain rfl := List.eq_nil_of_length_eq_zero h
    simpa [productRow, limbsValue] using hc
  | cons b bs ih =>
    cases ps with
    | nil => exact nomatch h
    | cons q ps =>
      have hlimb := Nat.mod_add_div (q.toNat + a.toNat * b.toNat + c) (2 ^ 32)
      have hrest := ih (Nat.succ.inj h) (productCarry_lt q a b hc)
      simp only [List.cons_append, productRow, limbsValue, BitVec.toNat_ofNat, hrest]
      linarith

theorem productFrom_cons {a p : Word} {bs ps rest : List Word} (as : List Word)
    (h : productRow a bs ps 0 = p :: rest) : productFrom bs (a :: as) ps = p :: productFrom bs as rest := by
  rw [productFrom, h]

/-- R94's outer loop from any partial product of the length of B, with a limb 0 above it for each limb of A to come. -/
theorem productFrom_exact {bs ps : List Word} (h : ps.length = bs.length) (as : List Word) :
    (productFrom bs as (ps ++ List.replicate as.length 0#32)).length = as.length + bs.length ∧
    limbsValue (productFrom bs as (ps ++ List.replicate as.length 0#32)) =
      limbsValue ps + limbsValue as * limbsValue bs := by
  induction as generalizing ps with
  | nil => simp [productFrom, limbsValue, h]
  | cons a as ih =>
    have hvalue := productRow_exact h a 0#32 (c := 0) (by norm_num)
    obtain ⟨p, ps', hrow⟩ : ∃ p ps', productRow a bs (ps ++ [0#32]) 0 = p :: ps' :=
      List.exists_cons_of_length_pos (by simp)
    have hlen : ps'.length = bs.length := by simpa [hrow, h] using productRow_length a bs (ps ++ [0#32]) 0
    have hpass : productRow a bs (ps ++ List.replicate (a :: as).length 0#32) 0 =
        p :: (ps' ++ List.replicate as.length 0#32) := by
      rw [List.length_cons, List.replicate_succ, productRow_append h, hrow, List.cons_append]
    obtain ⟨ihLen, ihValue⟩ := ih hlen
    rw [hrow, limbsValue] at hvalue
    rw [productFrom_cons as hpass, List.length_cons, List.length_cons, limbsValue, limbsValue, ihLen, ihValue]
    exact ⟨by omega, by linarith⟩

/-- R94 for vectors of any lengths. -/
theorem product_exact (as bs : List Word) :
    (product as bs).length = as.length + bs.length ∧
    limbsValue (product as bs) = limbsValue as * limbsValue bs := by
  have h := productFrom_exact (bs := bs) (ps := List.replicate bs.length 0#32) (by simp) as
  rwa [limbsValue_replicate_zero, Nat.zero_add, ← List.replicate_add, Nat.add_comm bs.length] at h

/-! ## MUL over the schoolbook product -/

theorem limbsValue_append (as bs : List Word) :
    limbsValue (as ++ bs) = limbsValue as + 2 ^ (32 * as.length) * limbsValue bs := by
  induction as with
  | nil => simp [limbsValue]
  | cons a as ih => rw [List.cons_append, limbsValue, limbsValue, ih, List.length_cons, two_pow_limbs_succ]; ring

theorem any_limb_ne_zero_iff (ls : List Word) : ls.any (fun l => l ≠ 0#32) = true ↔ 0 < limbsValue ls := by
  induction ls with
  | nil => simp [limbsValue]
  | cons l ls ih =>
    have hl : l ≠ 0#32 ↔ 0 < l.toNat := by rw [Nat.pos_iff_ne_zero, ne_eq, ne_eq, ← BitVec.toNat_inj]; rfl
    rw [List.any_cons, Bool.or_eq_true, ih, decide_eq_true_iff, hl, limbsValue]
    omega

/-- The M lower limbs of a vector are its value modulo CAP, and the limbs at or above M its quotient by CAP. -/
theorem limbsValue_take_drop (c : Config) {ls : List Word} (h : c.maxLimbs ≤ ls.length) :
    limbsValue (ls.take c.maxLimbs) = limbsValue ls % capacity c ∧
    limbsValue (ls.drop c.maxLimbs) = limbsValue ls / capacity c := by
  have hlow : limbsValue (ls.take c.maxLimbs) < capacity c := limbsValue_lt_capacity (List.length_take_le _ _)
  have hsplit := limbsValue_append (ls.take c.maxLimbs) (ls.drop c.maxLimbs)
  rw [List.take_append_drop, List.length_take_of_le h, ← capacity] at hsplit
  rw [hsplit, Nat.add_mul_mod_self_left, Nat.mod_eq_of_lt hlow, Nat.add_mul_div_left _ _ (capacity_pos c),
    Nat.div_eq_of_lt hlow, Nat.zero_add]
  exact ⟨rfl, rfl⟩

/-- R95's test on the limbs at or above M is the range test on the value. -/
theorem any_highLimb_iff (c : Config) {ls : List Word} (h : c.maxLimbs ≤ ls.length) :
    (ls.drop c.maxLimbs).any (fun l => l ≠ 0#32) = true ↔ capacity c ≤ limbsValue ls := by
  rw [any_limb_ne_zero_iff, (limbsValue_take_drop c h).2, Nat.div_pos_iff, and_iff_right (capacity_pos c)]

/-- R95's text: the product of magnitudes, with the sign of the rule of signs, or CAPACITY. -/
theorem schoolbookMul_eq {c : Config} {a b : Int} (ha : a.natAbs < capacity c) (hb : b.natAbs < capacity c) :
    schoolbookMul c a b = signedMul c a b := by
  obtain ⟨hlen, hvalue⟩ := product_exact (magLimbs c a) (magLimbs c b)
  rw [limbsValue_magLimbs ha, limbsValue_magLimbs hb] at hvalue
  have hM : c.maxLimbs ≤ (product (magLimbs c a) (magLimbs c b)).length := by simp [hlen]
  have htest := any_highLimb_iff c hM
  rw [hvalue] at htest
  rw [schoolbookMul, signedMul]
  by_cases hcap : capacity c ≤ a.natAbs * b.natAbs
  · rw [if_pos (htest.mpr hcap), capacityChecked_of_le (by rwa [natAbs_withSign])]
  · have hfits := Nat.lt_of_not_le hcap
    rw [if_neg (mt htest.mp hcap), capacityChecked_of_lt (by rwa [natAbs_withSign]),
      (limbsValue_take_drop c hM).1, hvalue, Nat.mod_eq_of_lt hfits]

/-- Settles O29: the loop's length and value, and R95's test and sign over it. -/
theorem schoolbookProductIsExact : Obligations.SchoolbookProductIsExact := by
  unfold Obligations.SchoolbookProductIsExact
  refine ⟨fun as bs h => ?_, fun c a b ha hb => (schoolbookMul_eq ha hb).symm⟩
  obtain ⟨hlen, hvalue⟩ := product_exact as bs
  exact ⟨by omega, hvalue⟩

end Sys2Proof.Machine
end

section
/-! PROOFS. DIVMOD's quotient and remainder, its faults in order, the division law on its registers, and restoring
long division: the divide family, O19, O28 and O30. -/

namespace Sys2Proof.Machine

/-! ## DIVMOD -/

theorem exec_divmod (s : State) (rd rs1 rs2 rs3 : RegIdx) :
    exec (.divmod rd rs1 rs2 rs3) s = finish s (divmodResult rd rs3 (readReg s rs1) (readReg s rs2)) := rfl

theorem divmodResult_sameDestination (rd : RegIdx) (a b : Int) : divmodResult rd rd a b = .fault .illegalCmd :=
  if_pos rfl

theorem divmodResult_negativeOperand {rd rs3 : RegIdx} (hne : rd ≠ rs3) {a b : Int} (h : a < 0 ∨ b < 0) :
    divmodResult rd rs3 a b = .fault .operationSource := by
  rw [divmodResult, if_neg hne]
  by_cases ha : a < 0
  · rw [if_pos ha]
  · rw [if_neg ha, if_pos (h.resolve_left ha)]

theorem divmodResult_zeroDivisor {rd rs3 : RegIdx} (hne : rd ≠ rs3) {a : Int} (ha : 0 ≤ a) :
    divmodResult rd rs3 a 0 = .fault .zeroDivide := by
  rw [divmodResult, if_neg hne, if_neg (Int.not_lt.mpr ha), if_neg (lt_irrefl 0), if_pos rfl]

theorem resultFlags_of_nonneg {v : Int} (h : 0 ≤ v) : resultFlags v = .result (decide (v = 0)) false := by
  rw [resultFlags, decide_eq_false (Int.not_lt.mpr h)]

/-- R98's success: on operands of these signs the magnitudes' quotient and remainder are the integers'. -/
theorem divmodResult_success {rd rs3 : RegIdx} (hne : rd ≠ rs3) {a b : Int} (ha : 0 ≤ a) (hb : 0 < b) :
    divmodResult rd rs3 a b = .success [(rd, a / b), (rs3, a % b)] (.result (decide (a / b = 0)) false) := by
  rw [divmodResult, if_neg hne, if_neg (Int.not_lt.mpr ha), if_neg hb.not_gt, if_neg hb.ne']
  simp only [Int.natCast_div, Int.natCast_mod, Int.natAbs_of_nonneg ha, Int.natAbs_of_nonneg hb.le]
  rw [resultFlags_of_nonneg (Int.ediv_nonneg ha hb.le)]

/-- Settles O19: the first check that fails decides, and the quotient is written before the remainder. -/
theorem divmodWritesQuotientAndRemainder : Obligations.DivmodWritesQuotientAndRemainder := by
  unfold Obligations.DivmodWritesQuotientAndRemainder
  intro s rd rs1 rs2 rs3 a b
  rw [exec_divmod]
  refine ⟨fun h => ?_, fun hne h => ?_, fun hne ha hb => ?_, fun hne ha hb => ?_⟩
  · rw [h, divmodResult_sameDestination, finish_fault]
  · rw [divmodResult_negativeOperand hne h, finish_fault]
  · rw [show readReg s rs2 = 0 from hb, divmodResult_zeroDivisor hne ha, finish_fault]
  · rw [divmodResult_success hne ha hb]; rfl

/-- Quotient and remainder are no larger than the operands, so the registers hold them whole. -/
theorem exec_divmod_reads {s : State} {rd rs1 rs2 rs3 : RegIdx} (hne : rd ≠ rs3) (ha : 0 ≤ readReg s rs1)
    (hb : 0 < readReg s rs2) :
    ∃ t, exec (.divmod rd rs1 rs2 rs3) s = .next t ∧
      readReg t rd = readReg s rs1 / readReg s rs2 ∧ readReg t rs3 = readReg s rs1 % readReg s rs2 := by
  obtain ⟨-, -, -, hexec⟩ := divmodWritesQuotientAndRemainder s rd rs1 rs2 rs3
  have hqFits : (readReg s rs1 / readReg s rs2).natAbs < capacity s.cfg := by
    have haCap := natAbs_readReg_lt s rs1
    have hq := Int.ediv_nonneg ha hb.le
    have hqle := Int.ediv_le_self (readReg s rs2) ha
    omega
  have hrFits : (readReg s rs1 % readReg s rs2).natAbs < capacity s.cfg := by
    have hbCap := natAbs_readReg_lt s rs2
    have hr := Int.emod_nonneg (readReg s rs1) hb.ne'
    have hrlt := Int.emod_lt_of_pos (readReg s rs1) hb
    omega
  exact ⟨_, hexec hne ha hb, (readReg_writeReg_other _ _ hne).trans (readReg_writeReg_same hqFits),
    readReg_writeReg_same (s := writeReg s rd _) hrFits⟩

/-- Settles O28: the registers read as Euclid's quotient and remainder. -/
theorem divmodResultsSatisfyDivisionLaw : Obligations.DivmodResultsSatisfyDivisionLaw := by
  unfold Obligations.DivmodResultsSatisfyDivisionLaw
  intro s rd rs1 rs2 rs3 hne ha hb
  obtain ⟨t, hexec, hrd, hrs3⟩ := exec_divmod_reads hne ha hb
  refine ⟨t, hexec, ?_⟩
  rw [hrd, hrs3]
  exact ⟨Int.ediv_mul_add_emod _ _, Int.emod_nonneg _ hb.ne', Int.emod_lt_of_pos _ hb⟩

/-! ## Restoring long division -/

/-- The bits of a from k up are those from k+1 up with bit k below them. -/
theorem div_two_pow_eq (a k : Nat) : a / 2 ^ k = 2 * (a / 2 ^ (k + 1)) + (a.testBit k).toNat := by
  rw [Nat.toNat_testBit, Nat.pow_succ, ← Nat.div_div_eq_div_mul, Nat.div_add_mod]

/-- R99's step on a remainder r below b: the trial subtraction makes the next quotient bit and remainder. -/
theorem restoringFrom_succ (a k q : Nat) {b r : Nat} (hr : r < b) :
    restoringFrom a b (k + 1) q r = restoringFrom a b k (q + (2 * r + (a.testBit k).toNat) / b * 2 ^ k)
      ((2 * r + (a.testBit k).toNat) % b) := by
  have hbit : (a.testBit k).toNat ≤ 1 := Bool.toNat_le _
  rw [restoringFrom]
  split
  case isTrue h =>
    have hdiv : (2 * r + (a.testBit k).toNat) / b = 1 := Nat.div_eq_of_lt_le (by omega) (by omega)
    rw [hdiv, Nat.one_mul, Nat.mod_eq_sub_mod h, Nat.mod_eq_of_lt (by omega)]
  case isFalse h =>
    rw [Nat.div_eq_of_lt (by omega), Nat.mod_eq_of_lt (by omega), Nat.zero_mul, Nat.add_zero]

/-- The loop's invariant: before bits k-1 to 0 the quotient and the remainder are those of a's bits from k up. -/
theorem restoringFrom_exact (a k : Nat) {b : Nat} (hb : 0 < b) :
    restoringFrom a b k (a / 2 ^ k / b * 2 ^ k) (a / 2 ^ k % b) = (a / b, a % b) := by
  induction k with
  | zero => simp [restoringFrom]
  | succ k ih =>
    have hsplit : a / 2 ^ k = 2 * (a / 2 ^ (k + 1) % b) + (a.testBit k).toNat + b * (2 * (a / 2 ^ (k + 1) / b)) := by
      have hdiv := Nat.mod_add_div (a / 2 ^ (k + 1)) b
      rw [div_two_pow_eq]; linarith
    rw [hsplit, Nat.add_mul_div_left _ _ hb, Nat.add_mul_mod_self_left] at ih
    rw [restoringFrom_succ _ _ _ (Nat.mod_lt _ hb), ← ih]
    congr 1; ring

/-- Settles O30: no bit of a lies above bitlen(a), so the loop starts from the invariant's quotient and remainder 0. -/
theorem restoringDivisionIsExact : Obligations.RestoringDivisionIsExact := by
  unfold Obligations.RestoringDivisionIsExact
  intro a b hb
  have h := restoringFrom_exact a (bitlen a) hb
  rwa [Nat.div_eq_of_lt (lt_two_pow_bitlen a), Nat.zero_div, Nat.zero_mul, Nat.zero_mod] at h

end Sys2Proof.Machine
end

section
/-! PROOFS. SHL and SHR over the values their operands read as, and the limb form of both, which moves every bit of
the vector's value by the count: the shift family, O20, O21 and O31. -/

namespace Sys2Proof.Machine

/-! ## SHL -/

theorem exec_shl (s : State) (rd rs1 rs2 : RegIdx) :
    exec (.shl rd rs1 rs2) s = finish s (resultOf rd (shlValue s.cfg (readReg s rs1) (readReg s rs2))) := rfl

theorem shlValue_of_negativeCount (c : Config) (a : Int) {k : Int} (h : k < 0) :
    shlValue c a k = .error .operationSource := if_pos h

theorem natAbs_mul_two_pow (a : Int) (k : Nat) : (a * 2 ^ k).natAbs = a.natAbs * 2 ^ k := by
  rw [Int.natAbs_mul, Int.natAbs_pow]; rfl

/-- The magnitude times 2^k under a's sign is a times 2^k (R101). -/
theorem withSign_natAbs_mul_two_pow (a : Int) (k : Nat) :
    withSign (decide (a < 0)) (a.natAbs * 2 ^ k) = a * 2 ^ k := by
  have hpos : ¬(2 ^ k : Int) < 0 := Int.not_lt.mpr (by positivity)
  simpa [hpos, Int.natAbs_pow] using withSign_xor_natAbs_mul a (2 ^ k)

/-- R101 from a count that is not negative. -/
theorem shlValue_of_nonneg (c : Config) (a : Int) {k : Int} (h : 0 ≤ k) :
    shlValue c a k = capacityChecked c (a * 2 ^ k.toNat) := by
  have hk : k.natAbs = k.toNat := by omega
  rw [shlValue, if_neg (Int.not_lt.mpr h), hk]
  obtain ⟨hmag, hfits⟩ | ⟨hmag, hcap⟩ := shlMag_cases c a.natAbs k.toNat
  · rw [hmag, capacityChecked_of_lt (by rwa [natAbs_mul_two_pow]), ← withSign_natAbs_mul_two_pow]
  · rw [hmag, capacityChecked_of_le (by rwa [natAbs_mul_two_pow])]

/-- Settles O20: the count's sign is tested first, and then SHL completes with the checked a * 2^k. -/
theorem shlShiftsMagnitudeLeft : Obligations.ShlShiftsMagnitudeLeft := by
  unfold Obligations.ShlShiftsMagnitudeLeft
  intro s rd rs1 rs2 a k
  obtain ⟨hfits, hfault⟩ := finish_capacityChecked s rd (a * 2 ^ k.toNat)
  rw [natAbs_mul_two_pow] at hfits hfault
  rw [exec_shl]
  refine ⟨fun hk => ?_, fun hk hcap => ?_, fun hk hlt => ?_⟩
  · rw [shlValue_of_negativeCount _ _ hk, finish_error]
  · rw [shlValue_of_nonneg _ _ hk, hfault hcap]
  · rw [shlValue_of_nonneg _ _ hk, hfits hlt]

/-! ## SHR -/

theorem exec_shr (s : State) (rd rs1 rs2 : RegIdx) :
    exec (.shr rd rs1 rs2) s = finish s (resultOf rd (shrValue s.cfg (readReg s rs1) (readReg s rs2))) := rfl

theorem shrValue_of_negativeCount (c : Config) (a : Int) {k : Int} (h : k < 0) :
    shrValue c a k = .error .operationSource := if_pos h

/-- Dividing the magnitude and keeping the sign truncates toward zero (R102). -/
theorem withSign_natAbs_div (a : Int) (d : Nat) : withSign (decide (a < 0)) (a.natAbs / d) = a.tdiv d := by
  rw [withSign_of_sign, Int.natCast_div]
  split
  case isTrue h =>
    rw [Int.ofNat_natAbs_of_nonpos h.le, ← Int.tdiv_eq_ediv_of_nonneg (by omega), Int.neg_tdiv, Int.neg_neg]
  case isFalse h => rw [Int.natAbs_of_nonneg (by omega), Int.tdiv_eq_ediv_of_nonneg (by omega)]

/-- R102 from a count that is not negative, for a value a register can hold. -/
theorem shrValue_of_nonneg {c : Config} {a k : Int} (ha : a.natAbs < capacity c) (h : 0 ≤ k) :
    shrValue c a k = .ok (a.tdiv (2 ^ k.toNat)) := by
  have hk : k.natAbs = k.toNat := by omega
  rw [shrValue, if_neg (Int.not_lt.mpr h), hk, shrMag_eq _ ha, withSign_natAbs_div, Nat.cast_pow, Nat.cast_ofNat]

/-- Settles O21: the count's sign is the only test, and the quotient has the sign of a. -/
theorem shrTruncatesTowardZero : Obligations.ShrTruncatesTowardZero := by
  unfold Obligations.ShrTruncatesTowardZero
  intro s rd rs1 rs2 a k
  rw [exec_shr]
  refine ⟨fun hk => ?_, fun hk => ?_⟩
  · rw [shrValue_of_negativeCount _ _ hk, finish_error]
  · rw [shrValue_of_nonneg (natAbs_readReg_lt s rs1) hk, finish_ok]

/-! ## The limb form -/

/-- Bit i of limb j is bit 32j + i of the value (R21). -/
theorem testBit_limbsValue (ls : List Word) (j : Nat) {i : Nat} (hi : i < 32) :
    (limbsValue ls).testBit (32 * j + i) = (ls.getD j 0#32).getLsbD i := by
  induction ls generalizing j with
  | nil => simp [limbsValue]
  | cons l ls ih =>
    rw [limbsValue, Nat.add_comm l.toNat, Nat.testBit_two_pow_mul_add _ l.isLt]
    cases j with
    | zero => rw [Nat.mul_zero, Nat.zero_add, if_pos hi, List.getD_cons_zero, BitVec.testBit_toNat]
    | succ j =>
      rw [if_neg (by omega), List.getD_cons_succ, ← ih]
      congr 1; omega

/-- A vector's value is known from the bits of its limbs. -/
theorem limbsValue_eq_of_bits {ls : List Word} {v : Nat}
    (h : ∀ j i, i < 32 → (ls.getD j 0#32).getLsbD i = v.testBit (32 * j + i)) : limbsValue ls = v := by
  refine Nat.eq_of_testBit_eq fun p => ?_
  have hi : p % 32 < 32 := Nat.mod_lt p (by norm_num)
  rw [← Nat.div_add_mod p 32, testBit_limbsValue _ _ hi, h _ _ hi]

/-- Two adjacent limbs hold 64 adjacent bits of the value. -/
theorem getLsbD_adjacentLimbs (ls : List Word) (j : Nat) {i : Nat} (hi : i < 64) :
    (ls.getD (j + 1) 0#32 ++ ls.getD j 0#32).getLsbD i = (limbsValue ls).testBit (32 * j + i) := by
  rw [BitVec.getLsbD_append]
  by_cases h : i < 32
  · rw [if_pos h, testBit_limbsValue _ _ h]
  · rw [if_neg h, ← testBit_limbsValue _ _ (by omega)]
    congr 1; omega

theorem shrLimbs_getD (as : List Word) (k j : Nat) : (shrLimbs as k).getD j 0#32 =
    ((as.getD (j + k / 32 + 1) 0#32 ++ as.getD (j + k / 32) 0#32) >>> (k % 32)).extractLsb' 0 32 := by
  by_cases hj : j < as.length
  · simp [shrLimbs, List.getD_eq_getElem?_getD, hj]
  · have hzero (d : Nat) : as.getD (j + d) 0#32 = 0#32 := List.getD_eq_default _ _ (by omega)
    rw [List.getD_eq_default _ _ (by simpa [shrLimbs] using hj), Nat.add_assoc, hzero, hzero]
    simp

/-- R103's right shift moves bit p + k of the value to bit p, for a vector of any length. -/
theorem limbsValue_shrLimbs (as : List Word) (k : Nat) : limbsValue (shrLimbs as k) = limbsValue as / 2 ^ k := by
  refine limbsValue_eq_of_bits fun j i hi => ?_
  rw [shrLimbs_getD, BitVec.getLsbD_extractLsb', decide_eq_true hi, Bool.true_and, BitVec.getLsbD_ushiftRight,
    getLsbD_adjacentLimbs _ _ (by omega), Nat.testBit_div_two_pow]
  congr 1; omega

/-- Limb j after whole limbs move up by d is limb j of the value times 2^(32d). -/
theorem getLsbD_limbBelow (as : List Word) (j d : Nat) {i : Nat} (hi : i < 32) :
    (limbBelow as j d).getLsbD i = (limbsValue as * 2 ^ (32 * d)).testBit (32 * j + i) := by
  rw [limbBelow, Nat.testBit_mul_two_pow]
  by_cases h : d ≤ j
  · rw [if_pos h, decide_eq_true (by omega), Bool.true_and, ← testBit_limbsValue _ _ hi]
    congr 1; omega
  · rw [if_neg h, decide_eq_false (by omega), Bool.false_and, BitVec.getLsbD_zero]

/-- R103's pair of limbs for the left shift: 64 adjacent bits of the value times 2^(32(d+1)). -/
theorem getLsbD_adjacentLimbsBelow (as : List Word) (j d : Nat) {i : Nat} (hi : i < 64) :
    (limbBelow as j d ++ limbBelow as j (d + 1)).getLsbD i =
      (limbsValue as * 2 ^ (32 * (d + 1))).testBit (32 * j + i) := by
  rw [BitVec.getLsbD_append]
  by_cases h : i < 32
  · rw [if_pos h, getLsbD_limbBelow _ _ _ h]
  · rw [if_neg h, getLsbD_limbBelow _ _ _ (by omega), Nat.mul_succ, Nat.pow_add, ← Nat.mul_assoc,
      Nat.testBit_mul_two_pow _ _ 32, decide_eq_true (by omega), Bool.true_and]
    congr 1; omega

theorem shlLimbs_getD {as : List Word} {j : Nat} (hj : j < as.length) (k : Nat) : (shlLimbs as k).getD j 0#32 =
    ((limbBelow as j (k / 32) ++ limbBelow as j (k / 32 + 1)) <<< (k % 32)).extractLsb' 32 32 := by
  simp [shlLimbs, List.getD_eq_getElem?_getD, hj]

/-- The upper limb of a pair shifted left by less than a limb takes its low bits from the lower limb. -/
theorem getLsbD_upperLimb_shiftLeft (w : BitVec (32 + 32)) {i r : Nat} (hi : i < 32) (hr : r < 32) :
    ((w <<< r).extractLsb' 32 32).getLsbD i = w.getLsbD (32 + i - r) := by
  have hin : 32 + i < 32 + 32 := by omega
  have hlow : ¬32 + i < r := by omega
  simp only [BitVec.getLsbD_extractLsb', BitVec.getLsbD_shiftLeft, hi, hin, hlow, decide_true, decide_false,
    Bool.not_false, Bool.true_and]

/-- R103's left shift moves bit p of the value to bit p + k, as far as the vector's limbs reach. -/
theorem limbsValue_shlLimbs (as : List Word) (k : Nat) :
    limbsValue (shlLimbs as k) = limbsValue as * 2 ^ k % 2 ^ (32 * as.length) := by
  refine limbsValue_eq_of_bits fun j i hi => ?_
  rw [Nat.testBit_mod_two_pow]
  by_cases hj : j < as.length
  · rw [shlLimbs_getD hj, getLsbD_upperLimb_shiftLeft _ hi (Nat.mod_lt k (by norm_num)),
      getLsbD_adjacentLimbsBelow _ _ _ (by omega), decide_eq_true (by omega), Bool.true_and,
      Nat.testBit_mul_two_pow, Nat.testBit_mul_two_pow]
    congr 1
    · exact decide_eq_decide.mpr (by omega)
    · congr 1; omega
  · rw [List.getD_eq_default _ _ (by simpa [shlLimbs] using hj), decide_eq_false (by omega), Bool.false_and,
      BitVec.getLsbD_zero]

/-- Settles O31: m's limbs hold m, and its left shift is within the vector when it is below CAP. -/
theorem limbShiftsEqualValueShifts : Obligations.LimbShiftsEqualValueShifts := by
  unfold Obligations.LimbShiftsEqualValueShifts
  intro c m k hm
  have hvalue : limbsValue (limbsOf c.maxLimbs m) = m := by rw [limbsValue_limbsOf]; exact Nat.mod_eq_of_lt hm
  rw [limbsValue_shlLimbs, limbsValue_shrLimbs, hvalue, limbsOf_length]
  exact ⟨Nat.mod_eq_of_lt, rfl⟩

end Sys2Proof.Machine
end

section
/-! PROOFS. CMP's flags and frame, BITLEN's least power over the value and over the limbs, and BIT's magnitude bit:
the compare and bit family, O22, O23, O24 and O36. -/

namespace Sys2Proof.Machine

/-! ## CMP -/

theorem exec_cmp (s : State) (rs1 rs2 : RegIdx) :
    exec (.cmp rs1 rs2) s = finish s (.success [] (orderFlags (readReg s rs1) (readReg s rs2))) := rfl

/-- Settles O22: a success without writes ends the command over the order flags alone. -/
theorem cmpSetsIntegerOrder : Obligations.CmpSetsIntegerOrder := by
  unfold Obligations.CmpSetsIntegerOrder
  intro s rs1 rs2 a b
  rw [exec_cmp, finish, complete_success]
  rfl

/-- Settles O36: the one state CMP answers with differs from s in LT, EQ, GT, BUSY and DONE alone. -/
theorem cmpLeavesRegistersAndResultFlags : Obligations.CmpLeavesRegistersAndResultFlags := by
  unfold Obligations.CmpLeavesRegistersAndResultFlags
  intro rs1 rs2 s t hexec
  have hsurr := complete_surroundings s (.success [] (orderFlags (readReg s rs1) (readReg s rs2)))
  rw [exec_cmp] at hexec
  obtain rfl := Host.Outcome.next.inj hexec
  exact ⟨rfl, rfl, rfl, rfl, rfl, rfl, hsurr⟩

/-! ## Bit length -/

/-- bitlen(a) is the least k with a < 2^k (R8). -/
theorem bitlen_le_iff {a k : Nat} : bitlen a ≤ k ↔ a < 2 ^ k := by
  rw [bitlen]
  split
  case isTrue h => simp [h]
  case isFalse h => rw [Nat.succ_le_iff, Nat.log2_lt h]

theorem bitlen_eq_zero_iff {a : Nat} : bitlen a = 0 ↔ a = 0 := by
  rw [← Nat.le_zero, bitlen_le_iff, Nat.pow_zero, Nat.lt_one_iff]

/-- Dropping the n low bits shortens the bit length by n. -/
theorem bitlen_div_two_pow (a n : Nat) : bitlen (a / 2 ^ n) = bitlen a - n := by
  refine eq_of_forall_ge_iff fun k => ?_
  rw [bitlen_le_iff, Nat.div_lt_iff_lt_mul (by positivity), ← Nat.pow_add, ← bitlen_le_iff, Nat.sub_le_iff_le_add]

theorem bitlen_limbsValue_cons (l : Word) {ls : List Word} (h : limbsValue ls ≠ 0) :
    bitlen (limbsValue (l :: ls)) = 32 + bitlen (limbsValue ls) := by
  have hhigh : limbsValue (l :: ls) / 2 ^ 32 = limbsValue ls := by
    have hl := l.isLt
    rw [limbsValue]; omega
  have hlen := bitlen_div_two_pow (limbsValue (l :: ls)) 32
  have hpos := mt bitlen_eq_zero_iff.mp h
  rw [hhigh] at hlen
  omega

/-- A vector has logical length 0 exactly when every limb is 0 (R24). -/
theorem logicalLength_eq_zero_iff (ls : List Word) : logicalLength ls = 0 ↔ limbsValue ls = 0 := by
  induction ls with
  | nil => exact iff_of_true rfl rfl
  | cons l ls ih =>
    have hl : l = 0#32 ↔ l.toNat = 0 := by rw [← BitVec.toNat_inj]; rfl
    rw [logicalLength, limbsValue]
    by_cases h : logicalLength ls = 0
    · simp only [if_pos h, hl]
      split <;> omega
    · rw [if_neg h]
      omega

/-- The source's bit length when every limb above the lowest is 0. -/
theorem limbBitlen_cons_of_zero (l : Word) {ls : List Word} (h : logicalLength ls = 0) :
    limbBitlen (l :: ls) = bitlen l.toNat := by
  by_cases hl : l = 0#32
  · simp [limbBitlen, logicalLength, bitlen, h, hl]
  · simp [limbBitlen, logicalLength, h, hl]

/-- A limb below a highest non-zero limb moves its index up by one. -/
theorem limbBitlen_cons_of_ne_zero (l : Word) {ls : List Word} (h : logicalLength ls ≠ 0) :
    limbBitlen (l :: ls) = 32 + limbBitlen ls := by
  have hlen : logicalLength (l :: ls) = logicalLength ls + 1 := if_neg h
  obtain ⟨n, hn⟩ := Nat.exists_eq_succ_of_ne_zero h
  rw [limbBitlen, limbBitlen, hlen, if_neg (Nat.succ_ne_zero _), if_neg h, Nat.add_sub_cancel, hn,
    Nat.succ_sub_one, List.getD_cons_succ]
  omega

/-- The source's formula is the bit length of the vector's value (R106). -/
theorem limbBitlen_eq (ls : List Word) : limbBitlen ls = bitlen (limbsValue ls) := by
  induction ls with
  | nil => rfl
  | cons l ls ih =>
    by_cases h : logicalLength ls = 0
    · rw [limbBitlen_cons_of_zero l h, limbsValue, (logicalLength_eq_zero_iff ls).mp h, Nat.mul_zero, Nat.add_zero]
    · rw [limbBitlen_cons_of_ne_zero l h, bitlen_limbsValue_cons l (mt (logicalLength_eq_zero_iff ls).mpr h), ih]

theorem exec_bitlen (s : State) (rd rs1 : RegIdx) :
    exec (.bitlen rd rs1) s = finish s (writesResult rd (bitlen (readReg s rs1).natAbs : Nat)) := rfl

/-- Settles O23: k is bitlen(|a|), which the range of a bounds by 32M and whose limbs hold |a|. -/
theorem bitlenWritesLeastBoundingPower : Obligations.BitlenWritesLeastBoundingPower := by
  unfold Obligations.BitlenWritesLeastBoundingPower
  intro s rd rs1
  have hrange := natAbs_readReg_lt s rs1
  refine ⟨bitlen (readReg s rs1).natAbs, lt_two_pow_bitlen _, fun j => bitlen_le_iff.mpr, bitlen_le_iff.mpr hrange,
    ?_, ?_⟩
  · rw [limbBitlen_eq, limbsValue_magLimbs hrange]
  · rw [exec_bitlen, finish_writesResult, resultState_of_nonneg s rd (Int.natCast_nonneg _)]

/-! ## BIT -/

theorem exec_bit (s : State) (rd rs1 rs2 : RegIdx) :
    exec (.bit rd rs1 rs2) s = finish s (resultOf rd (bitValue s.cfg (readReg s rs1) (readReg s rs2))) := rfl

theorem bitValue_of_negativeIndex (c : Config) (a : Int) {k : Int} (h : k < 0) :
    bitValue c a k = .error .operationSource := if_pos h

/-- R107 from an index that is not negative, for a value a register can hold. -/
theorem bitValue_of_nonneg {c : Config} {a k : Int} (ha : a.natAbs < capacity c) (h : 0 ≤ k) :
    bitValue c a k = .ok ((a.natAbs / 2 ^ k.toNat % 2 : Nat) : Int) := by
  have hk : k.natAbs = k.toNat := by omega
  rw [bitValue, if_neg (Int.not_lt.mpr h), hk, shrMag_eq _ ha]

/-- Settles O24: the index's sign is the only test, and a bit is not negative. -/
theorem bitWritesMagnitudeBit : Obligations.BitWritesMagnitudeBit := by
  unfold Obligations.BitWritesMagnitudeBit
  intro s rd rs1 rs2 a k
  rw [exec_bit]
  refine ⟨fun hk => ?_, fun hk => ?_⟩
  · rw [bitValue_of_negativeIndex _ _ hk, finish_error]
  · rw [bitValue_of_nonneg (natAbs_readReg_lt s rs1) hk, finish_ok, resultState_of_nonneg s rd (Int.natCast_nonneg _)]

end Sys2Proof.Machine
end

section
/-! PROOFS. LDW's result, which every legal device holds in one limb: the move family, O17. -/

namespace Sys2Proof.Machine

theorem exec_ldw (s : State) (rd : RegIdx) (imm : BitVec 16) :
    exec (.ldw rd imm) s = .next (resultState s rd (imm.toNat : Int)) := finish_writesResult s rd _

/-- A 16-bit word fits the register of every legal device (R6). -/
theorem toNat_lt_capacity {c : Config} (hw : c.wf = true) (imm : BitVec 16) : imm.toNat < capacity c :=
  imm.isLt.trans (lt_of_lt_of_le (by norm_num) (two_pow_32_le_capacity hw))

/-- Settles O17: the unsigned immediate is not negative and fits the destination. -/
theorem ldwWritesZeroExtendedImmediate : Obligations.LdwWritesZeroExtendedImmediate := by
  unfold Obligations.LdwWritesZeroExtendedImmediate
  intro s rd imm hw
  constructor
  · rw [exec_ldw, resultState_of_nonneg s rd (Int.natCast_nonneg _)]
  · exact readReg_resultState_same (toNat_lt_capacity hw imm)

end Sys2Proof.Machine
end

section
/-! PROOFS. The Montgomery constants, MontProd as a product by Rinv modulo n, the two exponentiation methods, and the
commands MONTMUL and MODEXP: the modular family, O25, O26, O32, O33 and O34. -/

namespace Sys2Proof.Machine

/-! ## Montgomery constants -/

theorem halveMod_lt {n x : Nat} (h : x < n) : halveMod n x < n := by
  rw [halveMod]
  split <;> omega

theorem two_mul_halveMod {n : Nat} (hodd : n % 2 = 1) (x : Nat) : 2 * halveMod n x ≡ x [MOD n] := by
  rw [halveMod]
  split
  case isTrue h => rw [Nat.mul_div_cancel' (Nat.dvd_of_mod_eq_zero h)]
  case isFalse h =>
    rw [Nat.mul_div_cancel' (by omega)]
    exact Nat.add_modEq_right

theorem invPow2_lt {n : Nat} (hn : 0 < n) (k : Nat) : invPow2 n k < n := by
  induction k with
  | zero => exact Nat.mod_lt 1 hn
  | succ k ih => exact halveMod_lt ih

theorem two_pow_mul_invPow2 {n : Nat} (hodd : n % 2 = 1) (k : Nat) : 2 ^ k * invPow2 n k ≡ 1 [MOD n] := by
  induction k with
  | zero => rw [Nat.pow_zero, Nat.one_mul]; exact Nat.mod_modEq 1 n
  | succ k ih =>
    calc 2 ^ (k + 1) * invPow2 n (k + 1) = 2 ^ k * (2 * halveMod n (invPow2 n k)) := by rw [invPow2]; ring
      _ ≡ 2 ^ k * invPow2 n k [MOD n] := (two_mul_halveMod hodd _).mul_left _
      _ ≡ 1 [MOD n] := ih

theorem montR_pos (n : Nat) : 0 < montR n := Nat.two_pow_pos _

theorem coprime_montR {n : Nat} (hodd : n % 2 = 1) : Nat.Coprime (montR n) n :=
  (Nat.coprime_two_left.mpr (Nat.odd_iff.mpr hodd)).pow_left _

theorem montR_mul_montRinv_modEq {n : Nat} (hodd : n % 2 = 1) : montR n * montRinv n ≡ 1 [MOD n] :=
  two_pow_mul_invPow2 hodd _

theorem montR_mul_montRinv_mod {n : Nat} (hodd : n % 2 = 1) (h1 : 1 < n) : montR n * montRinv n % n = 1 :=
  Nat.mod_eq_of_modEq (montR_mul_montRinv_modEq hodd) h1

/-- R is invertible modulo n, so at most one residue is its inverse (R110). -/
theorem eq_montRinv {n x : Nat} (hodd : n % 2 = 1) (h1 : 1 < n) (hlt : x < n) (hx : montR n * x % n = 1) :
    x = montRinv n := by
  have hmul : montR n * x ≡ montR n * montRinv n [MOD n] := hx.trans (montR_mul_montRinv_mod hodd h1).symm
  exact (Nat.ModEq.cancel_left_of_coprime (coprime_montR hodd).symm hmul).eq_of_lt_of_lt hlt (invPow2_lt (by omega) _)

theorem montRinv_pos {n : Nat} (hodd : n % 2 = 1) (h1 : 1 < n) : 0 < montRinv n := by
  refine Nat.pos_of_ne_zero fun h => ?_
  have hinv := montR_mul_montRinv_mod hodd h1
  rw [h, Nat.mul_zero, Nat.zero_mod] at hinv
  exact Nat.zero_ne_one hinv

/-- R110's division is exact. -/
theorem mul_montNprime_add_one {n : Nat} (hodd : n % 2 = 1) (h1 : 1 < n) :
    n * montNprime n + 1 = montR n * montRinv n := by
  have hpos : 1 ≤ montR n * montRinv n := Nat.mul_pos (montR_pos n) (montRinv_pos hodd h1)
  have hdvd : n ∣ montR n * montRinv n - 1 := (Nat.modEq_iff_dvd' hpos).mp (montR_mul_montRinv_modEq hodd).symm
  rw [montNprime, Nat.mul_div_cancel' hdvd, Nat.sub_add_cancel hpos]

theorem montNprime_lt {n : Nat} (hodd : n % 2 = 1) (h1 : 1 < n) : montNprime n < montR n := by
  have hexact := mul_montNprime_add_one hodd h1
  have hrinv : montR n * montRinv n ≤ montR n * n := Nat.mul_le_mul_left _ (invPow2_lt (by omega) _).le
  refine Nat.lt_of_mul_lt_mul_left (a := n) ?_
  rw [Nat.mul_comm n (montR n)]
  omega

/-- n' is the inverse of -n modulo R, as R110 derives from the exact division. -/
theorem mul_montNprime_mod {n : Nat} (hodd : n % 2 = 1) (h1 : 1 < n) :
    n * montNprime n % montR n = montR n - 1 := by
  have hexact := mul_montNprime_add_one hodd h1
  have hR := montR_pos n
  obtain ⟨q, hq⟩ := Nat.exists_eq_succ_of_ne_zero (montRinv_pos hodd h1).ne'
  have hsplit : n * montNprime n = montR n - 1 + montR n * q := by
    rw [hq, Nat.mul_succ] at hexact
    omega
  rw [hsplit, Nat.add_mul_mod_self_left, Nat.mod_eq_of_lt (by omega)]

/-- Settles O32: the halving loop gives an inverse of R below n, and n' follows from it. -/
theorem montgomeryConstantsMeetTheirDefinition : Obligations.MontgomeryConstantsMeetTheirDefinition := by
  unfold Obligations.MontgomeryConstantsMeetTheirDefinition
  intro n h3 hodd
  have h1 : 1 < n := by omega
  exact ⟨lt_two_pow_bitlen n, coprime_montR hodd, montRinv_pos hodd h1, invPow2_lt (by omega) _,
    montR_mul_montRinv_mod hodd h1, fun _ _ hlt hx => eq_montRinv hodd h1 hlt hx,
    Nat.eq_sub_of_add_eq (mul_montNprime_add_one hodd h1), montNprime_lt hodd h1, mul_montNprime_mod hodd h1⟩

/-! ## Montgomery product -/

/-- R111's u. -/
def montQuotient (a b n : Nat) : Nat := (a * b + a * b * montNprime n % montR n * n) / montR n

theorem montProd_eq (a b n : Nat) :
    montProd a b n = if montQuotient a b n ≥ n then montQuotient a b n - n else montQuotient a b n := rfl

/-- R111's division is exact: t + m*n is t*(1 + n'*n) = t*R*Rinv modulo R. -/
theorem montR_mul_montQuotient {n : Nat} (hodd : n % 2 = 1) (h1 : 1 < n) (a b : Nat) :
    montR n * montQuotient a b n = a * b + a * b * montNprime n % montR n * n := by
  refine Nat.mul_div_cancel' ((Nat.modEq_zero_iff_dvd).mp ?_)
  calc a * b + a * b * montNprime n % montR n * n ≡ a * b + a * b * montNprime n * n [MOD montR n] :=
        ((Nat.mod_modEq _ _).mul_right n).add_left _
    _ = a * b * (n * montNprime n + 1) := by ring
    _ = montR n * (a * b * montRinv n) := by rw [mul_montNprime_add_one hodd h1]; ring
    _ ≡ 0 [MOD montR n] := Nat.modEq_zero_iff_dvd.mpr (Nat.dvd_mul_right _ _)

/-- u is the product by Rinv modulo n, for operands of any size. -/
theorem montQuotient_modEq {n : Nat} (hodd : n % 2 = 1) (h1 : 1 < n) (a b : Nat) :
    montQuotient a b n ≡ a * b * montRinv n [MOD n] := by
  calc montQuotient a b n = montQuotient a b n * 1 := (Nat.mul_one _).symm
    _ ≡ montQuotient a b n * (montR n * montRinv n) [MOD n] := (montR_mul_montRinv_modEq hodd).symm.mul_left _
    _ = montR n * montQuotient a b n * montRinv n := by ring
    _ = a * b * montRinv n + n * (a * b * montNprime n % montR n * montRinv n) := by
        rw [montR_mul_montQuotient hodd h1]; ring
    _ ≡ a * b * montRinv n [MOD n] := Nat.add_mul_mod_self_left _ _ _

theorem mul_lt_montR_mul {n a b : Nat} (ha : a < n) (hb : b < n) : a * b < montR n * n :=
  Nat.mul_lt_mul'' (ha.trans (lt_two_pow_bitlen n)) hb

/-- R113's bound: t and m*n are each below R*n. -/
theorem montQuotient_lt {n a b : Nat} (ha : a < n) (hb : b < n) : montQuotient a b n < 2 * n := by
  have ht := mul_lt_montR_mul ha hb
  have hm : a * b * montNprime n % montR n * n < montR n * n :=
    Nat.mul_lt_mul_of_pos_right (Nat.mod_lt _ (montR_pos n)) (Nat.zero_lt_of_lt ha)
  rw [montQuotient, Nat.div_lt_iff_lt_mul (montR_pos n)]
  linarith

/-- One subtraction reduces a number below 2n. -/
theorem reduceOnce_eq_mod {n u : Nat} (h : u < 2 * n) : (if u ≥ n then u - n else u) = u % n := by
  split
  case isTrue hge => rw [Nat.mod_eq_sub_mod hge, Nat.mod_eq_of_lt (by omega)]
  case isFalse hlt => exact (Nat.mod_eq_of_lt (Nat.lt_of_not_le hlt)).symm

/-- R113's second property. -/
theorem montProd_of_reduced {n a b : Nat} (hodd : n % 2 = 1) (h1 : 1 < n) (ha : a < n) (hb : b < n) :
    montProd a b n = a * b * montRinv n % n := by
  rw [montProd_eq, reduceOnce_eq_mod (montQuotient_lt ha hb)]
  exact montQuotient_modEq hodd h1 a b

/-- R113's third property, for numbers of any size: Montgomery form is kept. -/
theorem montProd_montForm {n : Nat} (hodd : n % 2 = 1) (h1 : 1 < n) (x y : Nat) :
    montProd (x * montR n % n) (y * montR n % n) n = x * y * montR n % n := by
  have hlt (z : Nat) : z % n < n := Nat.mod_lt z (by omega)
  rw [montProd_of_reduced hodd h1 (hlt _) (hlt _)]
  calc x * montR n % n * (y * montR n % n) * montRinv n ≡ x * montR n * (y * montR n) * montRinv n [MOD n] :=
        ((Nat.mod_modEq _ _).mul (Nat.mod_modEq _ _)).mul_right _
    _ = x * y * montR n * (montR n * montRinv n) := by ring
    _ ≡ x * y * montR n * 1 [MOD n] := (montR_mul_montRinv_modEq hodd).mul_left _
    _ = x * y * montR n := Nat.mul_one _

/-- R113's last property on a Montgomery form: the product with 1 takes R out. -/
theorem montProd_montForm_one {n : Nat} (hodd : n % 2 = 1) (h1 : 1 < n) (x : Nat) :
    montProd (x * montR n % n) 1 n = x % n := by
  rw [montProd_of_reduced hodd h1 (Nat.mod_lt _ (by omega)) h1, Nat.mul_one]
  calc x * montR n % n * montRinv n ≡ x * montR n * montRinv n [MOD n] := (Nat.mod_modEq _ _).mul_right _
    _ = x * (montR n * montRinv n) := Nat.mul_assoc _ _ _
    _ ≡ x * 1 [MOD n] := (montR_mul_montRinv_modEq hodd).mul_left _
    _ = x := Nat.mul_one x

/-- Settles O33: R113's bound on u, and its products by Rinv. -/
theorem montProdIsReducedMontgomeryProduct : Obligations.MontProdIsReducedMontgomeryProduct := by
  unfold Obligations.MontProdIsReducedMontgomeryProduct
  intro n a b h3 hodd ha hb
  have h1 : 1 < n := by omega
  have hprod := montProd_of_reduced hodd h1 ha hb
  have hone := montProd_of_reduced hodd h1 ha h1
  rw [Nat.mul_one] at hone
  exact ⟨montQuotient_lt ha hb, hprod ▸ Nat.mod_lt _ (by omega), hprod, montProd_montForm hodd h1 a b, hone⟩

/-! ## Exponentiation -/

/-- Square-and-multiply: the power by e's bits from k up, from the power by its bits from k+1 up. -/
theorem pow_div_two_pow (a e k : Nat) : a ^ (e / 2 ^ k) =
    if e.testBit k = true then a ^ (e / 2 ^ (k + 1)) * a ^ (e / 2 ^ (k + 1)) * a
    else a ^ (e / 2 ^ (k + 1)) * a ^ (e / 2 ^ (k + 1)) := by
  rw [div_two_pow_eq]
  split
  case isTrue h => rw [h, Bool.toNat_true]; ring
  case isFalse h => rw [Bool.eq_false_of_not_eq_true h, Bool.toNat_false]; ring

/-- The binary method's invariant: before bits k-1 to 0 the accumulator is the power by e's bits from k up. -/
theorem modExpFrom_exact (a e n k : Nat) : modExpFrom a e n k (a ^ (e / 2 ^ k) % n) = a ^ e % n := by
  induction k with
  | zero => rw [modExpFrom, Nat.pow_zero, Nat.div_one]
  | succ k ih =>
    rw [modExpFrom, ← ih, pow_div_two_pow a e k]
    congr 1
    split <;> simp only [Nat.mul_mod, Nat.mod_mod]

theorem modExp_eq (a e n : Nat) : modExp a e n = a ^ e % n := by
  have h := modExpFrom_exact a e n (bitlen e)
  rwa [Nat.div_eq_of_lt (lt_two_pow_bitlen e), Nat.pow_zero] at h

/-- R117's invariant: the accumulator is the Montgomery form of the binary method's. -/
theorem montExpFrom_exact {n : Nat} (hodd : n % 2 = 1) (h1 : 1 < n) (a e k : Nat) :
    montExpFrom (a * montR n % n) e n k (a ^ (e / 2 ^ k) * montR n % n) = a ^ e * montR n % n := by
  induction k with
  | zero => rw [montExpFrom, Nat.pow_zero, Nat.div_one]
  | succ k ih =>
    rw [montExpFrom, ← ih, pow_div_two_pow a e k, montProd_montForm hodd h1, montProd_montForm hodd h1]
    split <;> rfl

theorem montModExp_eq {n : Nat} (hodd : n % 2 = 1) (h1 : 1 < n) (a e : Nat) : montModExp a e n = a ^ e % n := by
  have h := montExpFrom_exact hodd h1 a e (bitlen e)
  rw [Nat.div_eq_of_lt (lt_two_pow_bitlen e), Nat.pow_zero, Nat.one_mul] at h
  rw [montModExp, Nat.mod_mul_mod, h, montProd_montForm_one hodd h1]

/-- Settles O34: no bit of e lies above bitlen(e), so both loops start from the form of the empty power, 1. -/
theorem bothExponentiationMethodsGiveThePower : Obligations.BothExponentiationMethodsGiveThePower := by
  unfold Obligations.BothExponentiationMethodsGiveThePower
  intro a e n _
  exact ⟨modExp_eq a e n, fun h3 hodd => montModExp_eq hodd (by omega) a e⟩

/-! ## The commands' sign checks -/

/-- R112 and R115 test the operands' signs one after the other, with one cause for all three. -/
theorem ite_negativeOperand {α : Type} (a b n : Int) (x y : α) :
    (if a < 0 then x else if b < 0 then x else if n < 0 then x else y) =
      if a < 0 ∨ b < 0 ∨ n < 0 then x else y := by
  simp only [ite_or]

theorem not_negativeOperand {a b n : Int} (ha : 0 ≤ a) (hb : 0 ≤ b) (hn : 0 ≤ n) : ¬(a < 0 ∨ b < 0 ∨ n < 0) := by
  omega

/-! ## MONTMUL -/

theorem exec_montmul (s : State) (rd rs1 rs2 rs3 : RegIdx) : exec (.montmul rd rs1 rs2 rs3) s =
    finish s (resultOf rd (montmulValue s.cfg (readReg s rs1) (readReg s rs2) (readReg s rs3))) := rfl

theorem montmulValue_negativeOperand (c : Config) {a b n : Int} (h : a < 0 ∨ b < 0 ∨ n < 0) :
    montmulValue c a b n = .error .operationSource := by
  rw [montmulValue, ite_negativeOperand, if_pos h]

theorem montmulValue_zeroModulus (c : Config) {a b : Int} (ha : 0 ≤ a) (hb : 0 ≤ b) :
    montmulValue c a b 0 = .error .zeroDivide := by
  rw [montmulValue, ite_negativeOperand, if_neg (not_negativeOperand ha hb le_rfl), if_pos rfl]

/-- R112's last check of its operands; past it the value is the checked product. -/
theorem montmulValue_of_pos (c : Config) {a b n : Int} (ha : 0 ≤ a) (hb : 0 ≤ b) (hn : 0 < n) :
    montmulValue c a b n = if n % 2 = 0 ∨ n = 1 then .error .modulus
      else capacityChecked c (montProd a.natAbs b.natAbs n.natAbs : Nat) := by
  have hmodulus : n.natAbs % 2 = 0 ∨ n.natAbs = 1 ↔ n % 2 = 0 ∨ n = 1 := by omega
  rw [montmulValue, ite_negativeOperand, if_neg (not_negativeOperand ha hb hn.le), if_neg hn.ne']
  simp only [hmodulus]

/-- Settles O25: the first check that fails decides, and R110's Rinv is the one the formula uses. -/
theorem montmulWritesMontgomeryProduct : Obligations.MontmulWritesMontgomeryProduct := by
  unfold Obligations.MontmulWritesMontgomeryProduct
  intro s rd rs1 rs2 rs3 a b n
  rw [exec_montmul]
  refine ⟨fun h => ?_, fun ha hb hn => ?_, fun ha hb hn h => ?_, fun ha hb h1 hodd rinv => ?_⟩
  · rw [montmulValue_negativeOperand _ h, finish_error]
  · rw [show readReg s rs3 = 0 from hn, montmulValue_zeroModulus _ ha hb, finish_error]
  · rw [montmulValue_of_pos _ ha hb hn, if_pos h, finish_error]
  · intro r n' t u v _ hlt hinv
    obtain rfl : rinv = montRinv n.natAbs := eq_montRinv (by omega) (by omega) hlt hinv
    rw [montmulValue_of_pos _ ha hb (zero_lt_one.trans h1), if_neg (show ¬(n % 2 = 0 ∨ n = 1) by omega),
      resultState_of_nonneg s rd (Int.natCast_nonneg v)]
    exact finish_capacityChecked s rd (v : Int)

/-! ## MODEXP -/

theorem exec_modexp (s : State) (rd rs1 rs2 rs3 : RegIdx) : exec (.modexp rd rs1 rs2 rs3) s =
    finish s (resultOf rd (modexpValue (readReg s rs1) (readReg s rs2) (readReg s rs3))) := rfl

theorem modexpValue_negativeOperand {a e n : Int} (h : a < 0 ∨ e < 0 ∨ n < 0) :
    modexpValue a e n = .error .operationSource := by
  rw [modexpValue, ite_negativeOperand, if_pos h]

theorem modexpValue_zeroModulus {a e : Int} (ha : 0 ≤ a) (he : 0 ≤ e) : modexpValue a e 0 = .error .zeroDivide := by
  rw [modexpValue, ite_negativeOperand, if_neg (not_negativeOperand ha he le_rfl), if_pos rfl]

theorem modexpValue_of_pos {a e n : Int} (ha : 0 ≤ a) (he : 0 ≤ e) (hn : 0 < n) :
    modexpValue a e n = .ok (a.natAbs ^ e.natAbs % n.natAbs : Nat) := by
  rw [modexpValue, ite_negativeOperand, if_neg (not_negativeOperand ha he hn.le), if_neg hn.ne', modExp_eq]

/-- Settles O26: the first check that fails decides, and a residue is not negative. -/
theorem modexpWritesPowerResidue : Obligations.ModexpWritesPowerResidue := by
  unfold Obligations.ModexpWritesPowerResidue
  intro s rd rs1 rs2 rs3 a e n
  rw [exec_modexp]
  refine ⟨fun h => ?_, fun ha he hn => ?_, fun ha he hn => ?_⟩
  · rw [modexpValue_negativeOperand h, finish_error]
  · rw [show readReg s rs3 = 0 from hn, modexpValue_zeroModulus ha he, finish_error]
  · rw [modexpValue_of_pos ha he hn, finish_ok, resultState_of_nonneg s rd (Int.natCast_nonneg _)]

end Sys2Proof.Machine
end

section
/-! PROOFS. How a command or an illegal word ends, and what the two resets do: the exceptions and reset family, O38,
O39, O55 and O56. -/

namespace Sys2Proof.Machine

/-! ## The fault record -/

/-- A command that faults raises one of its own causes (R119). -/
theorem Ends.cause_mem {i : Instr} {c : Cause} (h : Ends i (.fault c)) : c ∈ causesOf i := by
  cases h with
  | raises _ hc => exact hc

/-- A success leaves FAULT, CAUSE and FAULT_CMD (R36, R130). -/
theorem complete_success_faultRecord (s : State) (ws : List (RegIdx × Int)) (fl : FlagWrite) :
    (complete s (.success ws fl)).fault = s.fault ∧ (complete s (.success ws fl)).cause = s.cause ∧
      (complete s (.success ws fl)).faultCmd = s.faultCmd := by
  rw [complete_success]
  cases fl <;> exact ⟨rfl, rfl, rfl⟩

/-- Settles O38: exec finishes with a fault, whose cause is the command's own, or with a success. -/
theorem commandsFaultPreciselyOrSucceed : Obligations.CommandsFaultPreciselyOrSucceed := by
  unfold Obligations.CommandsFaultPreciselyOrSucceed
  intro i s
  obtain ⟨r, hexec, hends⟩ := exec_ends i s
  cases r with
  | fault c => exact .inl ⟨c, hends.cause_mem, hexec.trans (finish_fault s c)⟩
  | success ws fl =>
    obtain ⟨hfault, hcause, hword⟩ := complete_success_faultRecord s ws fl
    exact .inr ⟨_, hexec, hfault, hcause, hword, complete_busy _ _, complete_done _ _⟩

/-- The engine's turn on a word the decoder refuses takes the fault, and looks at no operand (R72, R120). -/
theorem engineTurn_illegal {s : State} {e : DecodeError} (hb : s.busy = true) (hr : s.resetIn = false)
    (h : decode s.cmd = .error e) : engineTurn s = .next (faultState s .illegalCmd) := by
  rw [engineTurn_busy hb hr, runCommand, h]
  exact finish_fault s .illegalCmd

/-- Settles O39: the turn, listed or with no input left, is `engineTurn` on the illegal word. -/
theorem illegalWordTakesIllegalCmdFault : Obligations.IllegalWordTakesIllegalCmdFault := by
  unfold Obligations.IllegalWordTakesIllegalCmdFault
  intro s e rest hb hr hd
  exact ⟨fun hi => (step_cons hi).trans (engineTurn_illegal (s := { s with inputs := rest }) hb hr hd),
    fun hi => (step_nil hi).trans (engineTurn_illegal hb hr hd)⟩

/-! ## Soft reset -/

theorem writeCtrl_softReset (s : State) {v : Word} (h : v.getLsbD 1 = true) : writeCtrl s v = resetState s :=
  if_pos h

/-- Without SRST a CTRL write is a plain write of IE (R144). -/
theorem writeCtrl_plain (s : State) {v : Word} (h : v.getLsbD 1 = false) :
    writeCtrl s v = { s with ie := v.getLsbD 0 } := if_neg (Bool.eq_false_iff.mp h)

/-- Settles O55: CTRL is outside the busy rule, and its write is `writeCtrl`, which SRST splits. -/
theorem softResetGivesResetValues : Obligations.SoftResetGivesResetValues := by
  unfold Obligations.SoftResetGivesResetValues
  intro s v rest hi hr
  have hstep : step s = .next (writeCtrl { s with inputs := rest } v) :=
    step_hostWr hi hr (by decide) (by decide) (.inl (by decide))
  refine ⟨fun hv => ?_, fun hv => ?_⟩
  · rw [hstep, writeCtrl_softReset _ hv, resetState_eq_resetFor, hr]
    rfl
  · rw [hstep, writeCtrl_plain _ hv]

/-! ## The reset input -/

theorem setResetPin_changed {s : State} {level : Bool} (h : s.resetIn ≠ level) :
    setResetPin s level = { resetState s with resetIn := level } := if_neg h

theorem engineTurn_held {s : State} (h : s.resetIn = true) : engineTurn s = .next s :=
  engineTurn_idle fun ⟨_, hr⟩ => nomatch h.symm.trans hr

/-- While reset is asserted a read gives 0 (R143). -/
theorem memRead_held {s : State} {addr : Nat} (size : Nat) (h : s.resetIn = true)
    (ha : inAperture s.cfg addr = true) : memRead s addr size = .next (reply s addr size 0#32) := by
  simp [memRead, ha, h]

theorem memWrite_held {s : State} {addr : Nat} (size : Nat) (v : Word) (h : s.resetIn = true)
    (ha : inAperture s.cfg addr = true) : memWrite s addr size v = .next s := by
  simp [memWrite, ha, h]

/-- Settles O56: a changed level resets; at an asserted level the turn and the two accesses are the held ones. -/
theorem resetInputResetsAndHolds : Obligations.ResetInputResetsAndHolds := by
  unfold Obligations.ResetInputResetsAndHolds
  intro s rest
  refine ⟨fun level hi hne => ?_, fun hr => ⟨fun hi => ?_, fun hi => ?_, fun addr size hi ha => ?_,
    fun addr size v hi ha => ?_⟩⟩
  · have hpin := setResetPin_changed (s := { s with inputs := rest }) hne
    rw [step_cons hi, takeEvent, hpin, resetState_eq_resetFor]
  · exact (step_nil hi).trans (engineTurn_held hr)
  · exact (step_cons hi).trans (engineTurn_held (s := { s with inputs := rest }) hr)
  · exact (step_cons hi).trans (memRead_held (s := { s with inputs := rest }) size hr ha)
  · exact (step_cons hi).trans (memWrite_held (s := { s with inputs := rest }) size v hr ha)

end Sys2Proof.Machine
end
